-- ==== Sys2Proof/Word.lean ====
section
/-! DEFINITION. The widths the manual uses (byte, 16-bit and 32-bit fields) and the index types of the things the
KC416 has a fixed number of. -/

namespace Sys2Proof

/-- One byte of the Common Store, or the eight data bits of a Module Line character. -/
abbrev Byte := BitVec 8

/-- A 16-bit field: a pool index, a slot number, a baseline, a port word. -/
abbrev Half := BitVec 16

/-- A 32-bit field: a fob ID, a reference, a branch minute. -/
abbrev Word := BitVec 32

/-- A slot number, module × 24 + position: 0 to 383. -/
abbrev SlotIx := Fin 384

/-- A position within a module: 0 to 23. -/
abbrev PosIx := Fin 24

/-- A module address: 0 to 15. -/
abbrev ModIx := Fin 16

/-- A Record Pool index: 0 to 1599. -/
abbrev RecIx := Fin 1600

/-- An Order Board cell: 0 to 31. -/
abbrev CellIx := Fin 32

/-- An Alert Shelf entry: 0 to 31. -/
abbrev EntryIx := Fin 32

/-- A release context: 0 to 7. -/
abbrev CtxIx := Fin 8

/-- A Tally Unit counter: 0 to 7. -/
abbrev CounterIx := Fin 8

end Sys2Proof
end

