-- ==== Sys2Proof/Syntax.lean ====
section
/-! DEFINITION. The commands of the KC416, whole: one constructor for each row of spec/opcode_table.json, with what the
outside gives with the event (a host access, the characters a module sends, which timer expires). -/

namespace Sys2Proof

/-- A character received on MRX (R63): its eight data bits, its mark bit, and its stop bit (false: a framing error). -/
structure RxChar where
  data : Byte
  mark : Bool
  stop : Bool
  deriving DecidableEq, Repr

/-- The two measurement waits that can run: the current group's (R76) and the survey's (R174). -/
inductive WaitTimer where
  | group
  | survey
  deriving DecidableEq, Repr

/-- The commands. A host access carries its word address (ADDR1–ADDR15), its data and its byte lanes (BEL, BEH). A reply
carries the characters that arrive. An order's command carries the cell the order is taken from. -/
inductive Instr where
  | powerOnReset
  | resetEnd
  | storeClearingWord
  | hostStoreRead (addr : BitVec 15)
  | hostCellWrite (addr : BitVec 15) (data : Half) (bel beh : Bool)
  | hostShelfWrite (addr : BitVec 15) (data : Half) (bel beh : Bool)
  | hostGuardedAreaWrite (addr : BitVec 15) (data : Half) (bel beh : Bool)
  | portStatusClear (data : Half)
  | attention (data : Half)
  | setInterruptEnables (data : Half)
  | softReset (data : Half)
  | registerWriteIgnored (word : BitVec 15) (data : Half)
  | scanTimerExpiry
  | scanExamination
  | badKind (cell : CellIx)
  | enrolKey (cell : CellIx)
  | retireKey (cell : CellIx)
  | armKey (cell : CellIx)
  | disarmKey (cell : CellIx)
  | findKey (cell : CellIx)
  | pinSlot (cell : CellIx)
  | unpinSlot (cell : CellIx)
  | withdrawSlot (cell : CellIx)
  | restoreSlot (cell : CellIx)
  | handOut (cell : CellIx)
  | cancelHandOut (cell : CellIx)
  | declareLost (cell : CellIx)
  | extendLoan (cell : CellIx)
  | setClock (cell : CellIx)
  | setCounter (cell : CellIx)
  | readCounters (cell : CellIx)
  | setParameter (cell : CellIx)
  | walkStep
  | walkCompletion
  | lineWorkStart
  | requestFrameSent
  | waitTimerExpiry (timer : WaitTimer)
  | replyTimerExpiry
  | countsReply (chars : List RxChar)
  | fobReply (chars : List RxChar)
  | latchReply (chars : List RxChar)
  | lampReply (chars : List RxChar)
  | identifyReply (chars : List RxChar)
  | roundTimerExpiry
  | probeDue (module : ModIx)
  | removalTimerExpiry (ctx : CtxIx)
  | settleEnd (ctx : CtxIx)
  | jamReissue
  | secondTick
  | minuteEvent
  | passVisit
  | rebuildStep
  | deferredScanStep
  | replyFailedAttempt (chars : List RxChar)
  | retryAttemptStart
  deriving DecidableEq, Repr

end Sys2Proof
end

