-- ==== Sys2Proof/Decode.lean ====
section
/-! DEFINITION. Decoding. The rows of spec/opcode_table.json give no bits: commands are accesses and events at the pins, not
encoded words. -/

namespace Sys2Proof

/-- The command a word spells by the table's bits: no row of the table gives any, so a word spells none. -/
def decodeTableWord (_nbits _w : Nat) : Option Instr := none

end Sys2Proof
end

