-- ==== Sys2Proof/Config.lean ====
section
/-! DEFINITION. What the part fixes once for all: sizes and limits the manual states as numbers, and the one value it leaves
open. Every setting the host can change is in `Machine.Params`. -/

namespace Sys2Proof.Config

/-- The line command queue holds up to 32 entries (R79). -/
def lineQueueSize : Nat := 32

/-- The Due List's length never exceeds 1,024 (R127). -/
def dueListSize : Nat := 1024

/-- No due minute lies more than 525,600 minutes ahead at its acceptance (R85, R137). -/
def longestLoan : Nat := 525600

/-- In no module do more than two slots have a latch state other than CLOSED (R89). -/
def latchBudget : Nat := 2

/-- The largest baseline, in sixteenths of a count (R55, R58, R60). -/
def largestBaseline : Nat := 65520

/-- The Common Store has 32,768 words of two bytes (00_scope.md, Common Store map). -/
def storeWords : Nat := 32768

/-- The index a RETIRE KEY that ends KEY BUSY writes, by the record found: R20 gives this result, its detail and its
effect, and states an index for OK alone. A free value: nothing constrains it (log entry 30). -/
opaque retireBusyIndex : RecIx → Half

end Sys2Proof.Config
end

