-- ==== Sys2Proof/Machine/State.lean ====
section
/-! DEFINITION. The state of the KC416 as plain data: every register, table, queue, count and pin the manual gives it,
block by block, the queue of waiting commands, and the state right after reset. Record contents (slot records, key
records, cells, shelf entries, chain heads) live in the Common Store as bytes; `SlotRec` and `KeyRec` are how the blocks
read and write them. -/

namespace Sys2Proof.Machine

/-- Why a step could stop with a fault. The manual gives every command an effect in every state, so there is no such
reason: the type is empty (safe). -/
inductive Fault where
  deriving DecidableEq, Repr

/-- Why a command has no meaning. -/
inductive Refusal where
  /-- Raised by `exec` alone, for a command not modelled yet; no arm raises it (safe). -/
  | notModelled (mnemonic : String)
  deriving DecidableEq, Repr

/-! ## The Common Store -/

/-- The listed bytes of the 64 KiB Common Store, addresses rising; an unlisted address reads as the content the
power-on clearing writes there (`clearedByte`, log entry 1). -/
abbrev Memory := List Host.Cell

/-- Custody states of a key record (section 1.3). -/
inductive Custody where
  | unused
  | awaited
  | resting
  | releasing
  | out
  | missing
  | check
  | lost
  deriving DecidableEq, Repr

/-- Slot states (section 2.1). -/
inductive SlotState where
  | empty
  | identifying
  | held
  | stranger
  | releasing
  | relatching
  | unverified
  | withdrawn
  | fault
  deriving DecidableEq, Repr

/-- The latch field of a slot record (section 2.1). -/
inductive Latch where
  | closed
  | opening
  | opened
  | closing
  | jammed
  deriving DecidableEq, Repr

/-- The lamp field of a slot record (section 2.1). -/
inductive Lamp where
  | off
  | steady
  | flash
  deriving DecidableEq, Repr

/-- The stranger reason of a slot record (section 2.1). -/
inductive Reason where
  | unknownFob
  | unreadable
  | duplicate
  deriving DecidableEq, Repr

/-- The pending marks of a slot record, in ascending bit order (R28). -/
inductive SlotMark where
  | stranger
  | wrongSlot
  | slotFault
  | latchFault
  deriving DecidableEq, Repr

/-- The marks of a key record, in ascending bit order of the flags byte (R11). -/
inductive KeyMark where
  | keyBack
  | forcedRemoval
  | keyUnaccounted
  | returnedLate
  deriving DecidableEq, Repr

/-- A slot record as its owning blocks see it; `SlotRec.encode` gives its 24 bytes (section 2.1). -/
structure SlotRec where
  state : SlotState
  latch : Latch
  lamp : Lamp
  decided : Bool
  pinned : Bool
  surveyFound : Bool
  learned : Bool
  reason : Reason
  baseline : Half
  raw : Half
  history : Word
  key : Half
  fobSeen : Word
  pinnedFob : Word
  markStranger : Bool
  markWrongSlot : Bool
  markSlotFault : Bool
  markLatchFault : Bool
  attempts : Byte
  deriving DecidableEq, Repr

/-- A key record as the blocks see it; `KeyRec.encode` gives its 32 bytes (section 1.3). -/
structure KeyRec where
  state : Custody
  armed : Bool
  keyBack : Bool
  forcedRemoval : Bool
  keyUnaccounted : Bool
  returnedLate : Bool
  cls : Byte
  level : BitVec 4
  announced : BitVec 4
  next : Half
  slot : Half
  fob : Word
  vehicle : Word
  agreement : Word
  handOut : Word
  due : Word
  lateness : Half
  closedLoans : Half
  deriving DecidableEq, Repr

/-! ## Port Interface and start-up -/

/-- Where the part stands between reset and taking orders (R172–R177). -/
inductive Phase where
  /-- RESET is asserted. -/
  | inReset
  /-- The Common Store is being cleared; the word to be written next (R172). -/
  | clearing (word : Nat)
  /-- The power-on identification and survey, until READY (R173–R175). -/
  | powerOn
  /-- The soft-reset sequence, until READY (R176, R177). -/
  | softReset
  /-- READY is 1. -/
  | running
  deriving DecidableEq, Repr

/-- The four registers' bits (R153–R156), the INT and ALERT lines, and the data of the last host read. -/
structure Port where
  ready : Bool
  survey : Bool
  writeRefused : Bool
  shelfNews : Bool
  alert : Bool
  int : Bool
  doneEnable : Bool
  shelfEnable : Bool
  doneSummary : BitVec 32
  data : Half
  deriving DecidableEq, Repr

/-! ## Order Unit -/

/-- A taken order: its cell and the copy of the cell's bytes 1 to 63 made at the take (R161). -/
structure Order where
  cell : CellIx
  copy : List Byte
  deriving DecidableEq, Repr

/-- The order in execution, waiting for its walk; for HAND OUT, the removal window fixed at its start (R85). -/
structure Execution where
  order : Order
  window : Nat
  deriving DecidableEq, Repr

/-- A scan of the board in progress: its start index and how many cells it has examined (R160). -/
structure BoardScan where
  start : CellIx
  examined : Nat
  deriving DecidableEq, Repr

/-- The Order Unit's on-chip state (section 9.5). -/
structure Board where
  lastTaken : CellIx
  intake : List Order
  scan : Option BoardScan
  scanOwed : Bool
  execution : Option Execution
  deriving DecidableEq, Repr

/-! ## Directory Walker -/

/-- Who asked for a walk (R13). -/
inductive Asker where
  | slot (k : SlotIx)
  | order
  deriving DecidableEq, Repr

/-- A waiting Slot Supervisor request (R13). -/
structure SlotRequest where
  slot : SlotIx
  fob : Word
  deriving DecidableEq, Repr

/-- The waiting Order Unit request; a HOME SPAN walk steps on no chain (R13, R16). -/
structure OrderRequest where
  fob : Word
  chain : Bool
  deriving DecidableEq, Repr

/-- The walk in progress: requester, fob ID, home index, cursor (0xFFFF past the end), depth so far, the predecessor of
the cursor, and the record found (section 1.4). -/
structure Walk where
  asker : Asker
  fob : Word
  home : Nat
  cursor : Half
  depth : Nat
  pred : Option RecIx
  found : Option RecIx
  deriving DecidableEq, Repr

/-- The Directory Walker's on-chip state (R1, R6, R13). -/
structure Walker where
  walk : Option Walk
  slotRequests : List SlotRequest
  orderRequest : Option OrderRequest
  spareHead : Half
  inUse : Nat
  spare : Nat
  deriving DecidableEq, Repr

/-! ## Module Line Controller -/

/-- Module states (section 4.5). -/
inductive ModState where
  | unknown
  | online
  | lost
  | refused
  deriving DecidableEq, Repr

/-- The sequence and window a module's next counts are expected under (R77). -/
structure Expected where
  seq : Byte
  window : Nat
  deriving DecidableEq, Repr

/-- One entry of the module table (R72). -/
structure ModEntry where
  state : ModState
  lostMark : Bool
  backMark : Bool
  rounds : Nat
  surveyed : Bool
  surveying : Bool
  expected : Option Expected
  deriving DecidableEq, Repr

/-- A latch action (R90). -/
inductive Action where
  | close
  | open_
  deriving DecidableEq, Repr

/-- A request of the line command queue (R79). -/
inductive LineRequest where
  | latch (k : SlotIx) (action : Action)
  | readFob (k : SlotIx)
  | lamp (k : SlotIx)
  deriving DecidableEq, Repr

/-- What a transaction on the line is for (R81, R173, R174). -/
inductive Work where
  | command (r : LineRequest)
  | roundMeasure (group : Nat) (mask : Nat)
  | roundRead (m : ModIx)
  | probe (m : ModIx)
  | surveyMeasure (m : ModIx)
  | surveyRead (m : ModIx)
  | surveyFob (m : ModIx) (p : PosIx)
  deriving DecidableEq, Repr

/-- Where the attempt stands: its frame is on the line, its reply is awaited, or it failed and its retry is due. -/
inductive AttemptPhase where
  | sending
  | awaiting
  | retryDue
  deriving DecidableEq, Repr

/-- The transaction in progress: request frame, attempt number, the characters received so far, and the line divider and
reply time the attempt began with (R64, R69). -/
structure Transaction where
  work : Work
  frame : List Byte
  attempt : Nat
  phase : AttemptPhase
  received : List RxChar
  divider : Nat
  replyMs : Nat
  deriving DecidableEq, Repr

/-- Where the round stands in its current group, or that it works its probe list (R76). -/
inductive RoundStage where
  | measure
  | sending
  | waiting
  | reading
  | probing
  deriving DecidableEq, Repr

/-- The current round: grouping, current group, the modules still to read, the modules still to probe, and the wait in
microseconds of the group's MEASURE (R76). -/
structure Round where
  groups : Nat
  group : Nat
  stage : RoundStage
  readList : List ModIx
  probeList : List ModIx
  waitUs : Nat
  deriving DecidableEq, Repr

/-- The round timer: stopped, running for a period in ms, or expired while its round still runs (R78). -/
inductive RoundTimer where
  | stopped
  | running (ms : Nat)
  | expired
  deriving DecidableEq, Repr

/-- The steps of a survey (R174). -/
inductive SurveyStage where
  | measure
  | sending
  | waiting
  | read
  | reading
  | fobs
  deriving DecidableEq, Repr

/-- The counts a survey holds: none yet, those of its reply, or given up after three discards (R174). -/
inductive SurveyCounts where
  | awaited
  | held (counts : List Half)
  | givenUp
  deriving DecidableEq, Repr

/-- The result of one survey read: the position and the fob ID, or none for no contact (R174). -/
structure SurveyFob where
  pos : PosIx
  fob : Option Word
  deriving DecidableEq, Repr

/-- The survey in progress (R174). -/
structure Survey where
  module : ModIx
  stage : SurveyStage
  counts : SurveyCounts
  discards : Nat
  nextPos : Nat
  fobs : List SurveyFob
  waitUs : Nat
  deriving DecidableEq, Repr

/-- The MLC's on-chip state (chapter 4), the address the identification probes next (16: none to come, R173), and the
MDIR pin. -/
structure Mlc where
  modules : Vector ModEntry 16
  queue : List LineRequest
  waiting : List LineRequest
  transaction : Option Transaction
  round : Option Round
  survey : Option Survey
  seq : Byte
  roundTimer : RoundTimer
  identNext : Nat
  mdirSend : Bool
  deriving DecidableEq, Repr

/-! ## Slot Supervisor, Presence Engine and Release Unit -/

/-- A slot's identification step (R106). -/
inductive IdStep where
  | none
  | reading
  | looking
  | verifying
  deriving DecidableEq, Repr

/-- What the blocks keep on-chip for one slot: the identification step and outstanding-read flag (R106), the
run-reported flag (R51), the LATCH request outstanding and the latch action owed (R90), and whether the request
outstanding is a re-issued close of a JAMMED latch, which R99 treats apart when its transaction fails (log entry 32). -/
structure Chip where
  step : IdStep
  readOut : Bool
  runReported : Bool
  latchOut : Option Action
  latchOwed : Option Action
  reissued : Bool
  deriving DecidableEq, Repr

/-- Context states (chapter 5). -/
inductive CtxState where
  | waiting
  | opening
  | opened
  | relatching
  | closing
  deriving DecidableEq, Repr

/-- A release context in use (chapter 5). -/
structure Context where
  state : CtxState
  cell : Option CellIx
  key : Option RecIx
  slot : SlotIx
  agreement : Word
  due : Word
  window : Nat
  cancelNoted : Bool
  removalDecided : Bool
  timer : Bool
  settle : Option Nat
  deriving DecidableEq, Repr

/-- The Release Unit's on-chip state (chapter 5); `order` lists the contexts in use, earliest accepted first, which
tells an older context of a slot from a newer one (R84, log entry 24). -/
structure Release where
  contexts : Vector (Option Context) 8
  order : List CtxIx
  waitLists : Vector (List CtxIx) 16
  reservations : Nat
  roundEnds : Nat
  waitingCount : Nat
  deriving DecidableEq, Repr

/-! ## Loan Watch -/

/-- An entry of the Due List (R127). -/
structure DueEntry where
  key : RecIx
  due : Word
  deriving DecidableEq, Repr

/-- A pass in progress: its pass minute, its kind, and how many entries at the head of the list its cursor has passed
(R133, R134). -/
structure Pass where
  minute : Word
  full : Bool
  cursor : Nat
  deriving DecidableEq, Repr

/-- The Loan Watch's on-chip state (chapter 7); `rebuild` is the next pool index the rebuild examines. -/
structure Loans where
  minute : Word
  second : Nat
  clockSet : Bool
  due : List DueEntry
  overdue : Nat
  pass : Option Pass
  held : Bool
  rebuild : Option Nat
  deriving DecidableEq, Repr

/-! ## Alert Poster -/

/-- An alert offered to the Alert Poster (R142): what raises it, with what the event alone knows (the slot of a key
mark's event, the record a duplicate fob belongs to, the level and lateness of an announcement). -/
inductive Offer where
  | moduleLost (m : ModIx)
  | moduleBack (m : ModIx)
  | slotMark (k : SlotIx) (mark : SlotMark) (holder : Option RecIx)
  | keyMark (i : RecIx) (mark : KeyMark) (slot : Option SlotIx)
  | loan (i : RecIx) (level : Nat) (lateness : Nat)
  deriving DecidableEq, Repr

/-- The cursor of a deferred scan: its phase and index (R141, R146). -/
inductive ScanCursor where
  | module (m : ModIx)
  | slot (k : SlotIx)
  | key (i : RecIx)
  deriving DecidableEq, Repr

/-- The Alert Poster's on-chip state (R141); a scan runs while `scan` holds a cursor. `offered` is the model's own: the
alerts offered in the event being taken, empty between events (log entry 14). -/
structure Poster where
  deferred : Bool
  noted : Bool
  scan : Option ScanCursor
  offered : List Offer
  deriving DecidableEq, Repr

/-! ## Tally Unit and parameters -/

/-- One counter (section 10.1); `kinds` is the kind set, or the quantity number in ACCUMULATE mode. -/
structure Counter where
  value : BitVec 48
  accumulate : Bool
  kinds : Half
  moduleMask : Half
  classMask : Half
  overflow : Bool
  deriving DecidableEq, Repr

/-- The sixteen parameters (section 11.3), in the order of their ids. -/
structure Params where
  homeSpan : Nat
  window : Nat
  onThreshold : Nat
  offThreshold : Nat
  confirmCount : Nat
  driftShift : Nat
  seedDelta : Nat
  roundPeriod : Nat
  replyTimeout : Nat
  measureGroups : Nat
  lineDivider : Nat
  removalWindow : Nat
  grace : Nat
  escalation : Nat
  announceFrom : Nat
  lineUrgency : Nat
  deriving DecidableEq, Repr

/-! ## The whole -/

/-- The KC416, with the commands that wait, first in, first out. -/
structure State where
  pending : List Instr
  store : Memory
  phase : Phase
  port : Port
  board : Board
  walker : Walker
  mlc : Mlc
  chips : Vector Chip 384
  heldSlots : Nat
  emptySlots : Nat
  release : Release
  loans : Loans
  poster : Poster
  counters : Vector Counter 8
  params : Params
  deriving DecidableEq, Repr

/-! ## Power-on values -/

/-- Every bit of PORT STATUS and PORT CONTROL is 0 and both lines are deasserted (R154–R156). -/
def Port.reset : Port :=
  { ready := false, survey := false, writeRefused := false, shelfNews := false, alert := false, int := false,
    doneEnable := false, shelfEnable := false, doneSummary := 0, data := 0 }

/-- Last-taken index 31, queue empty, unit idle, no scan, none owed (R160, R162). -/
def Board.reset : Board :=
  { lastTaken := 31, intake := [], scan := none, scanOwed := false, execution := none }

/-- Walker free, lists empty, spare chain from record 0, every position unused (R1, R15). -/
def Walker.reset : Walker :=
  { walk := none, slotRequests := [], orderRequest := none, spareHead := 0, inUse := 0, spare := 1600 }

/-- An UNKNOWN module with nothing set (R72). -/
def ModEntry.reset : ModEntry :=
  { state := .unknown, lostMark := false, backMark := false, rounds := 0, surveyed := false, surveying := false,
    expected := none }

/-- No transaction, no round, timers stopped, queue and pending list empty (R72, R77, R79, R80, R83). -/
def Mlc.reset : Mlc :=
  { modules := Vector.replicate 16 ModEntry.reset, queue := [], waiting := [], transaction := none, round := none,
    survey := none, seq := 0, roundTimer := .stopped, identNext := 16, mdirSend := false }

/-- Step NONE, flags clear, nothing outstanding or owed (R62, R84, R106). -/
def Chip.reset : Chip :=
  { step := .none, readOut := false, runReported := false, latchOut := none, latchOwed := none,
    reissued := false }

/-- All contexts free, every wait list empty, all counts 0 (R84). -/
def Release.reset : Release :=
  { contexts := Vector.replicate 8 none, order := [], waitLists := Vector.replicate 16 [], reservations := 0,
    roundEnds := 0, waitingCount := 0 }

/-- Clock at 0 and not set, Due List empty, no pass, no rebuild (R124, R127, R130, R133). -/
def Loans.reset : Loans :=
  { minute := 0, second := 0, clockSet := false, due := [], overdue := 0, pass := none, held := false, rebuild := none }

/-- Flags clear, no scan (R141). -/
def Poster.reset : Poster :=
  { deferred := false, noted := false, scan := none, offered := [] }

/-- Value 0, mode COUNT, empty kind set, masks 0, flag clear (R166). -/
def Counter.reset : Counter :=
  { value := 0, accumulate := false, kinds := 0, moduleMask := 0, classMask := 0, overflow := false }

/-- The defaults of the parameter table (section 11.3, R178). -/
def Params.reset : Params :=
  { homeSpan := 512, window := 1000, onThreshold := 120, offThreshold := 60, confirmCount := 3, driftShift := 4,
    seedDelta := 200, roundPeriod := 250, replyTimeout := 5, measureGroups := 1, lineDivider := 3,
    removalWindow := 30, grace := 30, escalation := 240, announceFrom := 2, lineUrgency := 3 }

/-- The part with RESET asserted: every block at its power-on values (R172), no command waiting, nothing listed in the
Common Store (log entry 1). -/
def State.reset : State :=
  { pending := [], store := [], phase := .inReset, port := Port.reset, board := Board.reset, walker := Walker.reset,
    mlc := Mlc.reset, chips := Vector.replicate 384 Chip.reset, heldSlots := 0, emptySlots := 384,
    release := Release.reset, loans := Loans.reset, poster := Poster.reset,
    counters := Vector.replicate 8 Counter.reset, params := Params.reset }

end Sys2Proof.Machine
end

