-- ==== Sys2Proof/Machine/Ops.lean ====
section
/-! DEFINITION. The named operations over the Common Store and over the on-chip state: bytes and little-endian fields,
the record layouts, cells and their results, the registers' bits, the Tally Unit's events. -/

namespace Sys2Proof.Machine

/-! ## Little-endian fields (Conventions, byte order) -/

/-- The two bytes of a 16-bit field, least significant first. -/
def le16 (h : Half) : List Byte := [h.extractLsb' 0 8, h.extractLsb' 8 8]

/-- The four bytes of a 32-bit field, least significant first. -/
def le32 (w : Word) : List Byte :=
  [w.extractLsb' 0 8, w.extractLsb' 8 8, w.extractLsb' 16 8, w.extractLsb' 24 8]

/-- The 16-bit field at offset `n` of the bytes `f`. -/
def half (f : Nat → Byte) (n : Nat) : Half := f (n + 1) ++ f n

/-- The 32-bit field at offset `n` of the bytes `f`. -/
def word (f : Nat → Byte) (n : Nat) : Word := f (n + 3) ++ f (n + 2) ++ f (n + 1) ++ f n

/-- A byte of eight flags, bit 0 first. -/
def flagByte (b0 b1 b2 b3 b4 b5 b6 b7 : Bool) : Byte :=
  BitVec.ofBool b7 ++ BitVec.ofBool b6 ++ BitVec.ofBool b5 ++ BitVec.ofBool b4 ++ BitVec.ofBool b3 ++
    BitVec.ofBool b2 ++ BitVec.ofBool b1 ++ BitVec.ofBool b0

/-- Bit `n` of a byte. -/
def flag (b : Byte) (n : Nat) : Bool := b.getLsbD n

/-! ## The bytes of the Common Store -/

/-- The content the power-on clearing writes at an address (R172): 0 in cells and shelf entries, the slot record of R24,
0xFFFF in the Home Table, the unused record of R2 with the spare chain ascending. It is also what an unlisted address
reads as (log entry 1). -/
def clearedByte (a : Nat) : Byte :=
  if a < 0x0C00 then 0
  else if a < 0x3000 then
    if (a - 0x0C00) % 24 = 12 ∨ (a - 0x0C00) % 24 = 13 then 0xFF else 0
  else if a < 0x3800 then 0xFF
  else
    let next : Half := if (a - 0x3800) / 32 = 1599 then 0xFFFF else BitVec.ofNat 16 ((a - 0x3800) / 32 + 1)
    match (a - 0x3800) % 32 with
    | 4 => next.extractLsb' 0 8
    | 5 => next.extractLsb' 8 8
    | 6 => 0xFF
    | 7 => 0xFF
    | _ => 0

/-- One byte of the store. -/
def Memory.read (m : Memory) (a : Nat) : Byte :=
  match m.find? (fun c => c.1 == a) with
  | some c => c.2
  | none => clearedByte a

/-- The cells that a block of bytes at `a` lists: those that differ from the cleared content. -/
def Memory.listed (a : Nat) : List Byte → Memory
  | [] => []
  | b :: bs => if b = clearedByte a then Memory.listed (a + 1) bs else (a, b) :: Memory.listed (a + 1) bs

/-- Writes a block of bytes at `a`. -/
def Memory.write (m : Memory) (a : Nat) (bs : List Byte) : Memory :=
  m.filter (fun c => c.1 < a) ++ (Memory.listed a bs ++ m.filter (fun c => a + bs.length ≤ c.1))

/-- The canonical form: addresses strictly rising, no cell equal to what an unlisted address reads as. -/
abbrev Memory.wf (m : Memory) : Prop :=
  m.Pairwise (fun c d => c.1 < d.1) ∧ ∀ c ∈ m, c.2 ≠ clearedByte c.1

/-- One byte of the Common Store. -/
def State.byte (s : State) (a : Nat) : Byte := s.store.read a

/-- Writes a block of bytes into the Common Store. -/
def State.writeStore (s : State) (a : Nat) (bs : List Byte) : State := { s with store := s.store.write a bs }

/-! ## Where the elements of the store begin (00_scope.md, Common Store map) -/

def cellBase (c : CellIx) : Nat := 64 * c.val
def entryBase (e : EntryIx) : Nat := 0x0800 + 32 * e.val
def slotBase (k : SlotIx) : Nat := 0x0C00 + 24 * k.val
def homeBase (h : Nat) : Nat := 0x3000 + 2 * h
def keyBase (i : RecIx) : Nat := 0x3800 + 32 * i.val

/-! ## Codes of the layouts

Each code is read back to its name; a byte that holds no listed code (which no write of the part leaves) reads as the
name of code 0 (log entry 19). -/

def Custody.code : Custody → Byte
  | .unused => 0
  | .awaited => 1
  | .resting => 2
  | .releasing => 3
  | .out => 4
  | .missing => 5
  | .check => 6
  | .lost => 7

def Custody.ofCode (b : Byte) : Custody :=
  if b = 1 then .awaited else if b = 2 then .resting else if b = 3 then .releasing else if b = 4 then .out
  else if b = 5 then .missing else if b = 6 then .check else if b = 7 then .lost else .unused

def SlotState.code : SlotState → Byte
  | .empty => 0
  | .identifying => 1
  | .held => 2
  | .stranger => 3
  | .releasing => 4
  | .relatching => 5
  | .unverified => 6
  | .withdrawn => 7
  | .fault => 8

def SlotState.ofCode (b : Byte) : SlotState :=
  if b = 1 then .identifying else if b = 2 then .held else if b = 3 then .stranger else if b = 4 then .releasing
  else if b = 5 then .relatching else if b = 6 then .unverified else if b = 7 then .withdrawn
  else if b = 8 then .fault else .empty

def Latch.code : Latch → Byte
  | .closed => 0
  | .opening => 1
  | .opened => 2
  | .closing => 3
  | .jammed => 4

def Latch.ofCode (b : Byte) : Latch :=
  if b = 1 then .opening else if b = 2 then .opened else if b = 3 then .closing else if b = 4 then .jammed else .closed

def Lamp.code : Lamp → Byte
  | .off => 0
  | .steady => 1
  | .flash => 2

def Lamp.ofCode (b : Byte) : Lamp := if b = 1 then .steady else if b = 2 then .flash else .off

def Reason.code : Reason → Byte
  | .unknownFob => 0
  | .unreadable => 1
  | .duplicate => 2

/-- The two reason bits of the flags byte (bits 4 and 5). -/
def Reason.ofBits (b4 b5 : Bool) : Reason := if b5 then .duplicate else if b4 then .unreadable else .unknownFob

/-! ## Slot records (section 2.1) -/

/-- The 24 bytes of a slot record. -/
def SlotRec.encode (r : SlotRec) : List Byte :=
  [r.state.code, r.latch.code, r.lamp.code,
    flagByte r.decided r.pinned r.surveyFound r.learned (r.reason = .unreadable) (r.reason = .duplicate) false false] ++
    (le16 r.baseline ++ (le16 r.raw ++ (le32 r.history ++ (le16 r.key ++ (le32 r.fobSeen ++ (le32 r.pinnedFob ++
    [flagByte r.markStranger r.markWrongSlot r.markSlotFault r.markLatchFault false false false false,
      r.attempts]))))))

/-- The slot record that the bytes `f` hold. -/
def SlotRec.decode (f : Nat → Byte) : SlotRec :=
  { state := SlotState.ofCode (f 0), latch := Latch.ofCode (f 1), lamp := Lamp.ofCode (f 2),
    decided := flag (f 3) 0, pinned := flag (f 3) 1, surveyFound := flag (f 3) 2, learned := flag (f 3) 3,
    reason := Reason.ofBits (flag (f 3) 4) (flag (f 3) 5),
    baseline := half f 4, raw := half f 6, history := word f 8, key := half f 12, fobSeen := word f 14,
    pinnedFob := word f 18,
    markStranger := flag (f 22) 0, markWrongSlot := flag (f 22) 1, markSlotFault := flag (f 22) 2,
    markLatchFault := flag (f 22) 3, attempts := f 23 }

/-- The slot record of slot `k`. -/
def State.slot (s : State) (k : SlotIx) : SlotRec := SlotRec.decode (fun n => s.byte (slotBase k + n))

/-- Writes the slot record of slot `k`. -/
def State.setSlot (s : State) (k : SlotIx) (r : SlotRec) : State := s.writeStore (slotBase k) r.encode

/-- Changes fields of the slot record of slot `k`. -/
def State.modSlot (s : State) (k : SlotIx) (f : SlotRec → SlotRec) : State := s.setSlot k (f (s.slot k))

/-- A pending mark of a slot record (R28). -/
def SlotRec.mark (r : SlotRec) : SlotMark → Bool
  | .stranger => r.markStranger
  | .wrongSlot => r.markWrongSlot
  | .slotFault => r.markSlotFault
  | .latchFault => r.markLatchFault

/-- Sets or clears a pending mark of a slot record. -/
def SlotRec.setMark (r : SlotRec) (m : SlotMark) (v : Bool) : SlotRec :=
  match m with
  | .stranger => { r with markStranger := v }
  | .wrongSlot => { r with markWrongSlot := v }
  | .slotFault => { r with markSlotFault := v }
  | .latchFault => { r with markLatchFault := v }

/-! ## Key records (section 1.3) -/

/-- The 32 bytes of a key record. -/
def KeyRec.encode (r : KeyRec) : List Byte :=
  [r.state.code, flagByte r.armed false false false r.keyBack r.forcedRemoval r.keyUnaccounted r.returnedLate, r.cls,
    r.announced ++ r.level] ++
    (le16 r.next ++ (le16 r.slot ++ (le32 r.fob ++ (le32 r.vehicle ++ (le32 r.agreement ++ (le32 r.handOut ++
    (le32 r.due ++ (le16 r.lateness ++ le16 r.closedLoans))))))))

/-- The key record that the bytes `f` hold. -/
def KeyRec.decode (f : Nat → Byte) : KeyRec :=
  { state := Custody.ofCode (f 0), armed := flag (f 1) 0, keyBack := flag (f 1) 4, forcedRemoval := flag (f 1) 5,
    keyUnaccounted := flag (f 1) 6, returnedLate := flag (f 1) 7, cls := f 2,
    level := (f 3).extractLsb' 0 4, announced := (f 3).extractLsb' 4 4,
    next := half f 4, slot := half f 6, fob := word f 8, vehicle := word f 12, agreement := word f 16,
    handOut := word f 20, due := word f 24, lateness := half f 28, closedLoans := half f 30 }

/-- The key record at pool index `i`. -/
def State.key (s : State) (i : RecIx) : KeyRec := KeyRec.decode (fun n => s.byte (keyBase i + n))

/-- Writes the key record at pool index `i`. -/
def State.setKey (s : State) (i : RecIx) (r : KeyRec) : State := s.writeStore (keyBase i) r.encode

/-- Changes fields of the key record at pool index `i`. -/
def State.modKey (s : State) (i : RecIx) (f : KeyRec → KeyRec) : State := s.setKey i (f (s.key i))

/-- A mark of a key record (R11). -/
def KeyRec.mark (r : KeyRec) : KeyMark → Bool
  | .keyBack => r.keyBack
  | .forcedRemoval => r.forcedRemoval
  | .keyUnaccounted => r.keyUnaccounted
  | .returnedLate => r.returnedLate

/-- Sets or clears a mark of a key record. -/
def KeyRec.setMark (r : KeyRec) (m : KeyMark) (v : Bool) : KeyRec :=
  match m with
  | .keyBack => { r with keyBack := v }
  | .forcedRemoval => { r with forcedRemoval := v }
  | .keyUnaccounted => { r with keyUnaccounted := v }
  | .returnedLate => { r with returnedLate := v }

/-- An unused record (R2): state UNUSED, slot none, the next spare record, 0 elsewhere. -/
def KeyRec.spare (next : Half) : KeyRec :=
  { state := .unused, armed := false, keyBack := false, forcedRemoval := false, keyUnaccounted := false,
    returnedLate := false, cls := 0, level := 0, announced := 0, next := next, slot := 0xFFFF, fob := 0, vehicle := 0,
    agreement := 0, handOut := 0, due := 0, lateness := 0, closedLoans := 0 }

/-! ## Indexes held in 16-bit fields -/

/-- "None" in an index field. -/
def noIndex : Half := 0xFFFF

/-- The pool index a field names, or none. -/
def recOf (h : Half) : Option RecIx := if p : h.toNat < 1600 then some ⟨h.toNat, p⟩ else none

/-- The slot number a field names, or none. -/
def slotOf (h : Half) : Option SlotIx := if p : h.toNat < 384 then some ⟨h.toNat, p⟩ else none

/-- An index as a 16-bit field. -/
def ofIx {n : Nat} (i : Fin n) : Half := BitVec.ofNat 16 i.val

/-- An index or none as a 16-bit field. -/
def ofIx? {n : Nat} : Option (Fin n) → Half
  | some i => ofIx i
  | none => noIndex

/-- The module of a slot (section 2.0: m = floor(s / 24)). -/
def moduleOf (k : SlotIx) : ModIx := ⟨k.val / 24, by omega⟩

/-- The position of a slot within its module. -/
def positionOf (k : SlotIx) : PosIx := ⟨k.val % 24, by omega⟩

/-- The slot at a position of a module. -/
def slotAt (m : ModIx) (p : PosIx) : SlotIx := ⟨m.val * 24 + p.val, by omega⟩

/-- The 24 slots of a module, in ascending position. -/
def slotsOf (m : ModIx) : List SlotIx := (List.finRange 24).map (slotAt m)

/-! ## Home Table (section 1.2) -/

/-- The head of chain `h`. -/
def State.home (s : State) (h : Nat) : Half := half s.byte (homeBase h)

/-- Writes the head of chain `h`. -/
def State.setHome (s : State) (h : Nat) (v : Half) : State := s.writeStore (homeBase h) (le16 v)

/-! ## Per-index tables -/

/-- Replaces one place of a table. -/
def setAt {α : Type} {n : Nat} (v : Vector α n) (i : Fin n) (x : α) : Vector α n := v.set i.val x i.isLt

/-- The on-chip state of a slot. -/
def State.chip (s : State) (k : SlotIx) : Chip := s.chips[k.val]

/-- Changes the on-chip state of a slot. -/
def State.modChip (s : State) (k : SlotIx) (f : Chip → Chip) : State :=
  { s with chips := setAt s.chips k (f (s.chip k)) }

/-- The module table's entry for a module. -/
def State.modEntry (s : State) (m : ModIx) : ModEntry := s.mlc.modules[m.val]

/-- Changes the module table's entry for a module. -/
def State.modModule (s : State) (m : ModIx) (f : ModEntry → ModEntry) : State :=
  { s with mlc := { s.mlc with modules := setAt s.mlc.modules m (f (s.modEntry m)) } }

/-- Whether a module is ONLINE. -/
def State.online (s : State) (m : ModIx) : Bool := (s.modEntry m).state == .online

/-! ## Arithmetic the rules share -/

/-- A value held at the top of its range (saturating). -/
def saturate (n : Nat) (w : Nat) : BitVec w := BitVec.ofNat w (min n (2 ^ w - 1))

/-- A value replaced by the nearest end of its range (clamped). -/
def clamp (lo hi n : Nat) : Nat := max lo (min hi n)

/-- The fob IDs 0 and 0xFFFFFFFF are invalid (R7). -/
def invalidFob (f : Word) : Bool := f == 0 || f == 0xFFFFFFFF

/-- now: the minute count of the branch clock. -/
def State.now (s : State) : Nat := s.loans.minute.toNat

/-! ## The registers' bits (R154–R156) -/

/-- Re-evaluates INT (R156). -/
def Port.evalInt (p : Port) : Port :=
  { p with int := (p.doneSummary != 0 && p.doneEnable) || (p.shelfNews && p.shelfEnable) }

/-- A cell turns DONE: its DONE SUMMARY bit is set and INT re-evaluated (R163). -/
def Port.setDone (p : Port) (c : CellIx) : Port :=
  { p with doneSummary := p.doneSummary ||| BitVec.twoPow 32 c.val }.evalInt

/-- A cell is freed from DONE: its DONE SUMMARY bit is cleared and INT re-evaluated (R158). -/
def Port.clearDone (p : Port) (c : CellIx) : Port :=
  { p with doneSummary := p.doneSummary &&& ~~~(BitVec.twoPow 32 c.val) }.evalInt

/-- A post sets SHELF NEWS (R142). -/
def Port.postNews (p : Port) : Port := { p with shelfNews := true }.evalInt

/-- A refused store write sets WRITE REFUSED (R157). -/
def State.refuseWrite (s : State) : State := { s with port := { s.port with writeRefused := true } }

/-! ## Cells and results (sections 9.4, 9.7) -/

/-- One byte of a cell. -/
def State.cellByte (s : State) (c : CellIx) (n : Nat) : Byte := s.byte (cellBase c + n)

/-- Writes bytes of a cell. -/
def State.writeCell (s : State) (c : CellIx) (n : Nat) (bs : List Byte) : State := s.writeStore (cellBase c + n) bs

def cellFree : Byte := 0
def cellPosted : Byte := 1
def cellTaken : Byte := 2
def cellDone : Byte := 3

/-- The result codes (section 9.7). -/
inductive Code where
  | ok
  | collected
  | notCollected
  | takenLate
  | cancelled
  | lineFailure
  | latchFault
  | noSuchFob
  | duplicateFob
  | keyBusy
  | notArmed
  | notVerified
  | moduleLost
  | directoryFull
  | dueListFull
  | badDue
  | clockNotSet
  | keyRemoved
  | slotOccupied
  | slotWithdrawn
  | notCancellable
  | badParameter
  | badKind
  | directoryNotEmpty
  | reset
  | cabinetBusy
  | sensorFault
  deriving DecidableEq, Repr

/-- The number of a result code: its place in the table of section 9.7. -/
def Code.byte (c : Code) : Byte := BitVec.ofNat 8 c.ctorIdx

/-- What an order leaves in its cell: code, detail, index, and result data as (offset, bytes). -/
structure Result where
  code : Code
  detail : Byte := 0
  index : Half := noIndex
  data : List (Nat × List Byte) := []
  deriving DecidableEq, Repr

/-- Writes a result into a cell and turns it DONE, the state byte last (R163). -/
def State.writeResult (s : State) (c : CellIx) (r : Result) : State :=
  let s := r.data.foldl (fun s d => s.writeCell c d.1 d.2) s
  let s := s.writeCell c 4 ([r.code.byte, r.detail] ++ le16 r.index)
  let s := s.writeCell c 0 [cellDone]
  { s with port := s.port.setDone c }

/-! ## Tally events (sections 10.1–10.3) -/

/-- The kinds of tally event, in the order of their numbers (section 10.2). -/
inductive TallyKind where
  | handoutAccepted
  | collected
  | notCollected
  | takenLate
  | returnOnTime
  | returnLate
  | forcedRemoval
  | keyUnaccounted
  | strangerFob
  | lineRetry
  | moduleLost
  | staleCounts
  | directoryStep
  | latchWait
  | alertDeferred
  | queueFull
  deriving DecidableEq, Repr

/-- A counter's addition, modulo 2^48, with the sticky overflow flag (R169). -/
def Counter.add (c : Counter) (n : Nat) : Counter :=
  { c with value := BitVec.ofNat 48 (c.value.toNat + n), overflow := c.overflow || 2 ^ 48 ≤ c.value.toNat + n }

/-- Whether a counter's filter passes an event (R167). -/
def Counter.passes (c : Counter) (kind : TallyKind) (module : Option ModIx) (cls : Option Byte) : Bool :=
  !c.accumulate && c.kinds.getLsbD kind.ctorIdx &&
    (match module with
      | none => true
      | some m => c.moduleMask.getLsbD m.val) &&
    (match cls with
      | none => true
      | some b => c.classMask.getLsbD b.toNat)

/-- A tally event is raised: every COUNT counter whose filter passes it adds 1 (R167). -/
def State.tally (s : State) (kind : TallyKind) (module : Option ModIx) (cls : Option Byte) : State :=
  { s with counters := s.counters.map (fun c => if c.passes kind module cls then c.add 1 else c) }

/-- A quantity by its number (section 10.3). -/
def State.quantity (s : State) (n : Nat) : Nat :=
  match n with
  | 0 => s.loans.due.length
  | 1 => s.loans.overdue
  | 2 => s.heldSlots
  | 3 => s.emptySlots
  | 4 => s.release.waitingCount
  | _ => 0

/-- A minute notice: every ACCUMULATE counter adds its quantity (R168). -/
def State.minuteNotice (s : State) : State :=
  { s with counters := s.counters.map (fun c => if c.accumulate then c.add (s.quantity c.kinds.toNat) else c) }

/-- The other state after a command: the meaning's result as the step's outcome. -/
def done (s : State) : Host.Outcome State Fault Refusal := .next s

end Sys2Proof.Machine
end

