-- ==== Sys2Proof/Machine/Flags.lean ====
section
/-! DEFINITION. What the blocks compute from a few fields alone: the lamp policy, verdicts and runs, the drift and the
rescale of a baseline, the level of a loan, the home index, the qualifying entries of the ALERT line. -/

namespace Sys2Proof.Machine

/-- The lamp policy (R29). -/
def lampFor (st : SlotState) (l : Latch) : Lamp :=
  match st with
  | .releasing => if l = .opened then .flash else .off
  | .stranger => .steady
  | .fault => .steady
  | _ => .off

/-! ## Home index (R4) -/

/-- The low 12 bits of F, of F >> 12 and of F >> 24, combined by exclusive OR and masked by H − 1 (R4). -/
def homeIndex (f : Word) (h : Nat) : Nat :=
  ((f.extractLsb' 0 12 ^^^ f.extractLsb' 12 12) ^^^ (f >>> 24).extractLsb' 0 12).toNat &&& (h - 1)

/-! ## Verdicts, history and runs (chapter 3) -/

/-- A verdict (section 3.3). -/
inductive Verdict where
  | absent
  | present
  | invalid
  deriving DecidableEq, Repr

/-- The history entry of a verdict; 0 is none (section 3.3). -/
def Verdict.code : Verdict → BitVec 2
  | .absent => 1
  | .present => 2
  | .invalid => 3

/-- The 16 entries of a history, newest first (bits 1:0 hold the newest). -/
def entriesOf (h : Word) : List (BitVec 2) := (List.range 16).map (fun i => h.extractLsb' (2 * i) 2)

/-- A history with a new verdict in bits 1:0 (R49). -/
def pushVerdict (h : Word) (v : Verdict) : Word := (h <<< 2) ||| v.code.setWidth 32

/-- The newest entry of a history. -/
def newest (h : Word) : BitVec 2 := h.extractLsb' 0 2

/-- The length of the run of entries equal to `v` at the newest end (R49). -/
def runOf (h : Word) (v : Verdict) : Nat := ((entriesOf h).takeWhile (· == v.code)).length

/-- A count of 0 or 4,095 is INVALID (R45). -/
def invalidCount (c : Half) : Bool := c == 0 || c == 4095

/-- The newest valid verdict of a history, or ABSENT if it holds none (R48). -/
def newestValid (h : Word) : Verdict :=
  match (entriesOf h).find? (fun e => e == 1 || e == 2) with
  | some e => if e = 2 then .present else .absent
  | none => .absent

/-- The delta of a valid count: the base count floor(B / 16) minus the count (R46). -/
def delta (baseline count : Half) : Int := (baseline.toNat / 16 : Nat) - (count.toNat : Int)

/-- The verdict of a count at a slot that is not WITHDRAWN (R45, R47, R48). -/
def verdictOf (p : Params) (r : SlotRec) (c : Half) : Verdict :=
  if invalidCount c then .invalid
  else if !r.learned then .absent
  else if (p.onThreshold : Int) ≤ delta r.baseline c then .present
  else if delta r.baseline c ≤ (p.offThreshold : Int) then .absent
  else newestValid r.history

/-- B + floor((16C − B) / 2^k), clamped to 0–65,520 (R55). -/
def drifted (k : Nat) (b c : Half) : Half :=
  let b' : Int := b.toNat + (16 * (c.toNat : Int) - b.toNat) / (2 ^ k : Nat)
  BitVec.ofNat 16 (min b'.toNat Config.largestBaseline)

/-- floor(B × Wnew / Wold), clamped to 65,520 (R58). -/
def rescaled (b : Half) (wNew wOld : Nat) : Half :=
  BitVec.ofNat 16 (min (b.toNat * wNew / wOld) Config.largestBaseline)

/-- 16 × (C + S), clamped to 65,520 (R60). -/
def seeded (c : Half) (s : Nat) : Half := BitVec.ofNat 16 (min (16 * (c.toNat + s)) Config.largestBaseline)

/-! ## Levels (R131, R132) -/

/-- The level of a loan due at `d`, at minute `t`, with GRACE `g1` and ESCALATION `g2` (R131). -/
def levelAt (t d g1 g2 : Nat) : Nat :=
  if t < d then 0 else if t < d + g1 then 1 else if t < d + g2 then 2 else 3

/-- Whether an announcement is owed (R132, R146). -/
def announcementOwed (p : Params) (level announced : Nat) : Bool := announced < level && p.announceFrom ≤ level

/-- t − d in minutes, 0 when negative, saturating at 65,535 (R115, R132, R140). -/
def latenessOf (t d : Nat) : Nat := min (t - d) 65535

/-! ## ALERT line (R150) -/

/-- Whether an entry is FREE (section 8.1). -/
def State.entryFree (s : State) (e : EntryIx) : Bool := s.byte (entryBase e) == 0

/-- Whether an entry is POSTED with an urgency at or above LINE URGENCY (R150). -/
def State.entryQualifies (s : State) (e : EntryIx) : Bool :=
  s.byte (entryBase e) == 1 && s.params.lineUrgency ≤ (s.byte (entryBase e + 2)).toNat

/-- Re-evaluates the ALERT line (R150). -/
def State.evalAlert (s : State) : State :=
  { s with port := { s.port with alert := (List.finRange 32).any s.entryQualifies } }

/-- The FREE entry of lowest index, if there is one (R142). -/
def State.freeEntry (s : State) : Option EntryIx := (List.finRange 32).find? s.entryFree

end Sys2Proof.Machine
end

