-- ==== Sys2Proof/Machine/Alerts.lean ====
section
/-! DEFINITION. The Alert Poster (chapter 8): what each alert carries, posting and deferral, the end of an event at which
the alerts it offered are posted in their order, and the deferred scan. -/

namespace Sys2Proof.Machine

/-! ## Entries (R140, R143) -/

/-- The content of a shelf entry besides its state and posting minute (section 8.1). -/
structure Entry where
  kind : Nat
  urgency : Nat
  level : Nat := 0
  slot : Option SlotIx := none
  key : Option RecIx := none
  fob : Word := 0
  vehicle : Word := 0
  agreement : Word := 0
  due : Word := 0
  module : Option ModIx := none
  lateness : Half := 0
  deriving DecidableEq, Repr

/-- The 32 bytes of a POSTED entry (section 8.1). -/
def Entry.encode (e : Entry) (minute : Word) : List Byte :=
  [1, BitVec.ofNat 8 e.kind, BitVec.ofNat 8 e.urgency, BitVec.ofNat 8 e.level] ++
    (le16 (ofIx? e.slot) ++ (le16 (ofIx? e.key) ++ (le32 e.fob ++ (le32 e.vehicle ++ (le32 e.agreement ++
    (le32 minute ++ (le32 e.due ++ (le16 (ofIx? e.module) ++ le16 e.lateness))))))))

def KeyMark.kind : KeyMark → Nat
  | .returnedLate => 4
  | .keyBack => 5
  | .forcedRemoval => 6
  | .keyUnaccounted => 7

def KeyMark.urgency : KeyMark → Nat
  | .returnedLate => 1
  | .keyBack => 1
  | .forcedRemoval => 3
  | .keyUnaccounted => 3

def SlotMark.kind : SlotMark → Nat
  | .stranger => 8
  | .wrongSlot => 9
  | .slotFault => 10
  | .latchFault => 11

def SlotMark.urgency : SlotMark → Nat
  | .stranger => 2
  | .wrongSlot => 1
  | .slotFault => 2
  | .latchFault => 2

/-- A slot alert that names the key the slot names at posting (R140). -/
def State.slotKeyEntry (s : State) (k : SlotIx) (mark : SlotMark) : Entry :=
  let e : Entry := { kind := mark.kind, urgency := mark.urgency, slot := some k, module := some (moduleOf k) }
  match recOf (s.slot k).key with
  | some i => { e with key := some i, fob := (s.key i).fob, vehicle := (s.key i).vehicle }
  | none => e

/-- The entry an offered alert makes, with the records as they stand at the posting (R140, R143). -/
def State.entryOf (s : State) : Offer → Entry
  | .moduleLost m => { kind := 12, urgency := 3, module := some m }
  | .moduleBack m => { kind := 13, urgency := 1, module := some m }
  | .slotMark k .stranger holder =>
    { kind := SlotMark.stranger.kind, urgency := SlotMark.stranger.urgency, level := (s.slot k).reason.code.toNat,
      slot := some k, key := holder, fob := (s.slot k).fobSeen, module := some (moduleOf k) }
  | .slotMark k .wrongSlot _ => s.slotKeyEntry k .wrongSlot
  | .slotMark k .slotFault _ => s.slotKeyEntry k .slotFault
  | .slotMark k .latchFault _ => s.slotKeyEntry k .latchFault
  | .keyMark i mark slot =>
    let r := s.key i
    { kind := mark.kind, urgency := mark.urgency, slot := slot, key := some i, fob := r.fob, vehicle := r.vehicle,
      agreement := r.agreement, due := r.due, module := slot.map moduleOf,
      lateness := if mark = .returnedLate then r.lateness else 0 }
  | .loan i level lateness =>
    let r := s.key i
    { kind := level, urgency := level, level := level, key := some i, fob := r.fob, vehicle := r.vehicle,
      agreement := r.agreement, due := r.due, lateness := BitVec.ofNat 16 lateness }

/-- What a post clears: the mark it reports, or the gap between level and announced level (R142). -/
def State.clearOwed (s : State) : Offer → State
  | .moduleLost m => s.modModule m (fun e => { e with lostMark := false })
  | .moduleBack m => s.modModule m (fun e => { e with backMark := false })
  | .slotMark k mark _ => s.modSlot k (fun r => r.setMark mark false)
  | .keyMark i mark _ => s.modKey i (fun r => r.setMark mark false)
  | .loan i level _ => s.modKey i (fun r => { r with announced := BitVec.ofNat 4 level })

/-! ## Posting and deferral (R142, R144) -/

/-- Posts an alert into an entry: its 32 bytes, the mark cleared, SHELF NEWS set, the lines re-evaluated (R142). -/
def State.post (s : State) (e : EntryIx) (o : Offer) : State :=
  let s := (s.writeStore (entryBase e) ((s.entryOf o).encode s.loans.minute)).clearOwed o
  { s with port := s.port.postNews }.evalAlert

/-- Defers an alert: the deferred flag, the deferral-noted flag while a scan runs, one ALERT DEFERRED event (R144). -/
def State.deferAlert (s : State) (o : Offer) : State :=
  let e := s.entryOf o
  let s := { s with poster := { s.poster with deferred := true, noted := s.poster.noted || s.poster.scan.isSome } }
  s.tally .alertDeferred e.module (e.key.map (fun i => (s.key i).cls))

/-- Takes one offered alert: posted into the lowest FREE entry, or deferred (R142, R144). -/
def State.takeOffer (s : State) (o : Offer) : State :=
  match s.freeEntry with
  | some e => s.post e o
  | none => s.deferAlert o

/-- An alert is offered in the event being taken; it is posted at the event's end (`State.finish`). -/
def State.offer (s : State) (o : Offer) : State :=
  { s with poster := { s.poster with offered := s.poster.offered ++ [o] } }

def SlotMark.bit : SlotMark → Nat
  | .stranger => 0
  | .wrongSlot => 1
  | .slotFault => 2
  | .latchFault => 3

def KeyMark.bit : KeyMark → Nat
  | .keyBack => 4
  | .forcedRemoval => 5
  | .keyUnaccounted => 6
  | .returnedLate => 7

/-- The place of an alert among those of one event: modules, slots, key records; within a record the marks in ascending
bit order, and a loan announcement last (R142). Among several of one sort the index ascends (log entry 14). -/
def Offer.rank : Offer → Nat
  | .moduleLost m => 16 * m.val
  | .moduleBack m => 16 * m.val + 1
  | .slotMark k mark _ => 0x10000 + 16 * k.val + mark.bit
  | .keyMark i mark _ => 0x20000 + 16 * i.val + mark.bit
  | .loan i _ _ => 0x20000 + 16 * i.val + 8

/-- Puts an alert in its place among alerts already in order. -/
def insertOffer (o : Offer) : List Offer → List Offer
  | [] => [o]
  | p :: ps => if o.rank < p.rank then o :: p :: ps else p :: insertOffer o ps

/-- The alerts of one event in the order of their posting. -/
def inOrder (os : List Offer) : List Offer := os.foldl (fun acc o => insertOffer o acc) []

/-- The end of an event: every alert it offered is taken, in order (R142). An ALERT DEFERRED of the event is counted
here, after a counter order that began in it: the model's choice (log entry 33). -/
def State.finish (s : State) : State :=
  (inOrder s.poster.offered).foldl State.takeOffer { s with poster := { s.poster with offered := [] } }

/-- Sets a slot mark and offers its alert (R28). -/
def State.raiseSlotMark (s : State) (k : SlotIx) (mark : SlotMark) (holder : Option RecIx := none) : State :=
  (s.modSlot k (fun r => r.setMark mark true)).offer (.slotMark k mark holder)

/-- Sets a key record mark and offers its alert with the slot of the event (R11, R143). -/
def State.raiseKeyMark (s : State) (i : RecIx) (mark : KeyMark) (slot : SlotIx) : State :=
  (s.modKey i (fun r => r.setMark mark true)).offer (.keyMark i mark (some slot))

/-! ## The deferred scan (R146–R148) -/

/-- A deferred scan starts at module 0 with the deferral-noted flag clear (R146). -/
def State.startAlertScan (s : State) : State :=
  { s with poster := { s.poster with scan := some (.module 0), noted := false } }

/-- The alerts an item owes, in the order of R146. -/
def State.owedAt (s : State) : ScanCursor → List Offer
  | .module m =>
    (if (s.modEntry m).lostMark then [.moduleLost m] else []) ++ (if (s.modEntry m).backMark then [.moduleBack m] else [])
  | .slot k =>
    ([SlotMark.stranger, .wrongSlot, .slotFault, .latchFault].filter (s.slot k).mark).map (fun m => .slotMark k m none)
  | .key i =>
    let r := s.key i
    if r.state = .unused then []
    else
      ([KeyMark.keyBack, .forcedRemoval, .keyUnaccounted, .returnedLate].filter r.mark).map
          (fun m => .keyMark i m (slotOf r.slot)) ++
        (if r.state = .out && announcementOwed s.params r.level.toNat r.announced.toNat then
          [.loan i r.level.toNat (latenessOf s.now r.due.toNat)] else [])

/-- The next place of a scan's cursor, or none past key record 1599. -/
def ScanCursor.next : ScanCursor → Option ScanCursor
  | .module m => if h : m.val + 1 < 16 then some (.module ⟨m.val + 1, h⟩) else some (.slot 0)
  | .slot k => if h : k.val + 1 < 384 then some (.slot ⟨k.val + 1, h⟩) else some (.key 0)
  | .key i => if h : i.val + 1 < 1600 then some (.key ⟨i.val + 1, h⟩) else none

/-- A scan completes (R148). -/
def State.completeAlertScan (s : State) : State :=
  let s' := { s with poster := { s.poster with scan := none } }
  if s.poster.noted then
    (if s.freeEntry.isSome then s'.startAlertScan else s')
  else { s' with poster := { s'.poster with deferred := false } }

/-- Posts what an item owes until one alert finds no FREE entry, which is deferred and ends the scan; otherwise the
cursor moves on or the scan completes (R147). -/
def State.postOwed (s : State) (cursor : ScanCursor) : List Offer → State
  | [] =>
    match cursor.next with
    | some c => { s with poster := { s.poster with scan := some c } }
    | none => s.completeAlertScan
  | o :: os =>
    match s.freeEntry with
    | some e => (s.post e o).postOwed cursor os
    | none =>
      let s := s.deferAlert o
      { s with poster := { s.poster with scan := none } }

/-- DEFERRED_SCAN_STEP: the scan examines the item at its cursor (R147). -/
def execDeferredScanStep (s : State) : Host.Outcome State Fault Refusal :=
  match s.poster.scan with
  | some c => done (s.postOwed c (s.owedAt c)).finish
  | none => done s

end Sys2Proof.Machine
end

