-- ==== Sys2Proof/Machine/Operands.lean ====
section
/-! DEFINITION. What comes in with a command and what goes out on the line: the parameters of an order's copy, the frames
the MLC sends, the reading of a reply's characters, the bits and times of a character. -/

namespace Sys2Proof.Machine

/-! ## An order's parameters (section 9.4) -/

/-- Byte `n` (1 to 63) of an order's copy of its cell. -/
def Order.byte (o : Order) (n : Nat) : Byte := o.copy.getD (n - 1) 0

/-- The order kind at the take (R164). -/
def Order.kind (o : Order) : Nat := (o.byte 1).toNat

/-- The fob ID in bytes 8–11. -/
def Order.fob (o : Order) : Word := word o.byte 8

/-- The slot number in bytes 8–9 of a slot order (section 2.3). -/
def Order.slotNumber (o : Order) : Half := half o.byte 8

/-! ## Characters on the line (R63, R64) -/

/-- One bit time in microseconds at a divider (R64). -/
def bitTimeUs (div : Nat) : Nat := 2 * (div + 1)

/-- One character time in microseconds at a divider (R64). -/
def charTimeUs (div : Nat) : Nat := 22 * (div + 1)

/-- The bit rate at a divider, rounded down (R64). -/
def bitRate (div : Nat) : Nat := 8000000 / (16 * (div + 1))

/-- The eleven bits of a character on MTX, in the order of sending: start bit, data from the least significant bit, mark
bit, stop bit (R63). -/
def charBits (mark : Bool) (b : Byte) : List Bool :=
  false :: ((List.range 8).map b.getLsbD ++ [mark, true])

/-- The bits of a frame on MTX: the mark is 1 in the address character alone (R63). -/
def frameBits : List Byte → List Bool
  | [] => []
  | a :: bs => charBits true a ++ bs.flatMap (charBits false)

/-! ## Frames the MLC sends (section 4.2) -/

/-- The 8-bit sum of a list of characters. -/
def sum8 (bs : List Byte) : Byte := bs.foldr (· + ·) 0

/-- A frame: address character, length character, data, and the check character that makes the sum 0 (R65). -/
def frame (kind : Nat) (addr : Nat) (data : List Byte) : List Byte :=
  let body := BitVec.ofNat 8 (16 * kind + addr) :: BitVec.ofNat 8 data.length :: data
  body ++ [-(sum8 body)]

def Action.byte : Action → Byte
  | .close => 0
  | .open_ => 1

/-- The module a piece of line work concerns; a round's MEASURE concerns a whole group. -/
def Work.module : Work → Option ModIx
  | .command (.latch k _) => some (moduleOf k)
  | .command (.readFob k) => some (moduleOf k)
  | .command (.lamp k) => some (moduleOf k)
  | .roundMeasure _ _ => none
  | .roundRead m => some m
  | .probe m => some m
  | .surveyMeasure m => some m
  | .surveyRead m => some m
  | .surveyFob m _ => some m

/-- Whether a piece of line work is a READ FOB, whose reply time is 30 ms longer (R69). -/
def Work.readsFob : Work → Bool
  | .command (.readFob _) => true
  | .surveyFob _ _ => true
  | _ => false

/-- A MEASURE frame (section 4.2). -/
def measureFrame (nibble mask : Nat) (seq : Byte) (window : Nat) : List Byte :=
  frame 1 nibble ([BitVec.ofNat 8 mask, seq] ++ le16 (BitVec.ofNat 16 window))

/-- The request frame of a piece of line work as the state gives it when the frame is formed: a MEASURE carries the last
sequence number and the WINDOW in force, a LAMP the lamp field (R29, R71, R76). -/
def State.frameFor (s : State) : Work → List Byte
  | .command (.latch k a) => frame 4 (moduleOf k).val [BitVec.ofNat 8 (positionOf k).val, a.byte]
  | .command (.readFob k) => frame 3 (moduleOf k).val [BitVec.ofNat 8 (positionOf k).val]
  | .command (.lamp k) => frame 5 (moduleOf k).val [BitVec.ofNat 8 (positionOf k).val, (s.slot k).lamp.code]
  | .roundMeasure j mask => measureFrame j mask s.mlc.seq s.params.window
  | .roundRead m => frame 2 m.val []
  | .probe m => frame 6 m.val []
  | .surveyMeasure m => measureFrame m.val 15 s.mlc.seq s.params.window
  | .surveyRead m => frame 2 m.val []
  | .surveyFob m p => frame 3 m.val [BitVec.ofNat 8 p.val]

/-- The addresses a MEASURE frame names: (A XOR J) AND M is 0 (R67, R77). -/
def named (j mask : Nat) (a : ModIx) : Bool := (a.val ^^^ j) &&& mask == 0

/-! ## Replies (R66, R70) -/

/-- What a reply must be: its address character, its length, and its position byte where the request had one. -/
structure Awaited where
  address : Byte
  length : Nat
  position : Option Byte
  deriving DecidableEq, Repr

/-- The reply a piece of line work waits for; a MEASURE has none (section 4.2). -/
def Work.awaited : Work → Option Awaited
  | .command (.latch k _) => some ⟨BitVec.ofNat 8 (16 * 12 + (moduleOf k).val), 2, some (BitVec.ofNat 8 (positionOf k).val)⟩
  | .command (.readFob k) => some ⟨BitVec.ofNat 8 (16 * 11 + (moduleOf k).val), 6, some (BitVec.ofNat 8 (positionOf k).val)⟩
  | .command (.lamp k) => some ⟨BitVec.ofNat 8 (16 * 13 + (moduleOf k).val), 1, some (BitVec.ofNat 8 (positionOf k).val)⟩
  | .roundMeasure _ _ => none
  | .roundRead m => some ⟨BitVec.ofNat 8 (16 * 10 + m.val), 37, none⟩
  | .probe m => some ⟨BitVec.ofNat 8 (16 * 14 + m.val), 2, none⟩
  | .surveyMeasure _ => none
  | .surveyRead m => some ⟨BitVec.ofNat 8 (16 * 10 + m.val), 37, none⟩
  | .surveyFob m p => some ⟨BitVec.ofNat 8 (16 * 11 + m.val), 6, some (BitVec.ofNat 8 p.val)⟩

/-- What the characters received so far come to. -/
inductive Reception where
  /-- The reply is not complete; its attempt goes on waiting. -/
  | incomplete
  /-- A condition of R70 is broken. -/
  | failed
  /-- The reply is good; its data characters. -/
  | good (data : List Byte)
  deriving DecidableEq, Repr

/-- Judges the characters received for a reply (R69, R70): characters with mark 0 before the first with mark 1 are
ignored, and those after the check character are not part of the reply. -/
def judge (w : Awaited) (chars : List RxChar) : Reception :=
  match chars.dropWhile (fun c => !c.mark) with
  | [] => .incomplete
  | a :: rest =>
    let body := rest.take (w.length + 2)
    let bytes := body.map RxChar.data
    let data := (bytes.drop 1).take w.length
    if !a.stop || a.data != w.address || body.any (fun c => c.mark || !c.stop) then .failed
    else if bytes.head?.any (· != BitVec.ofNat 8 w.length) then .failed
    else if body.length < w.length + 2 then .incomplete
    else if sum8 (a.data :: bytes) != 0 then .failed
    else if w.position.any (fun p => data.getD 0 0 != p) then .failed
    else .good data

/-- The 24 counts of a COUNTS reply's data: positions 2i and 2i + 1 in bytes 3i + 1 to 3i + 3 (section 4.2). -/
def countsOf (data : List Byte) : List Half :=
  (List.range 12).flatMap (fun i =>
    let b (n : Nat) : Nat := (data.getD (3 * i + n) 0).toNat
    [BitVec.ofNat 16 (b 1 + 256 * (b 2 % 16)), BitVec.ofNat 16 (b 2 / 16 + 16 * b 3)])

/-- The fob of a READ FOB reply's data: a result other than 0, and a fob ID of 0, are no contact (R70, R108). -/
def fobOf (data : List Byte) : Option Word :=
  let f := word (fun n => data.getD n 0) 2
  if data.getD 1 0 = 0 ∧ f ≠ 0 then some f else none

/-- A sensed latch (R68). -/
inductive Sensed where
  | closed
  | opened
  | jammed
  deriving DecidableEq, Repr

/-- The sensed latch of a LATCH reply's data; a value above 2 is jammed (R70). -/
def sensedOf (data : List Byte) : Sensed :=
  let b := data.getD 1 0
  if b = 0 then .closed else if b = 1 then .opened else .jammed

end Sys2Proof.Machine
end

