-- ==== Sys2Proof/Machine/Slots.lean ====
section
/-! DEFINITION. The Slot Supervisor's state machine (chapters 2 and 6): requests to the line command queue, changes of a
slot's state with the counts and the lamp that follow, strangers, pins, and the four slot orders. -/

namespace Sys2Proof.Machine

/-! ## The line command queue (R79, R80) -/

/-- The slot a request names. -/
def LineRequest.slot : LineRequest → SlotIx
  | .latch k _ => k
  | .readFob k => k
  | .lamp k => k

/-- A request offered to the MLC: dropped when its module is not ONLINE, appended to the queue, or refused by a full
queue and put on the pending list with a QUEUE FULL event (R79, R80). -/
def State.offerLine (s : State) (r : LineRequest) : State :=
  let m := moduleOf r.slot
  if !s.online m then s
  else if s.mlc.queue.length < Config.lineQueueSize then
    { s with mlc := { s.mlc with queue := s.mlc.queue ++ [r] } }
  else
    { s with mlc := { s.mlc with waiting := s.mlc.waiting ++ [r] } }.tally .queueFull (some m) none

/-- A LAMP request, unless one for the slot is outstanding in the queue or on the pending list (R29, R30). -/
def State.requestLamp (s : State) (k : SlotIx) : State :=
  if s.mlc.queue.contains (.lamp k) || s.mlc.waiting.contains (.lamp k) then s else s.offerLine (.lamp k)

/-- READ FOB is offered for a slot and its outstanding-read flag set; the flag stays clear when the request is dropped
because the module is not ONLINE (R106, R107). -/
def State.offerRead (s : State) (k : SlotIx) : State :=
  let m := moduleOf k
  (s.modChip k (fun c => { c with readOut := s.online m })).offerLine (.readFob k)

/-! ## Changes of a slot (R23, R26, R29) -/

/-- A slot passes from one state to another: the HELD and EMPTY counts follow (R26). -/
def State.countSlots (s : State) (old new : SlotState) : State :=
  { s with
    heldSlots := s.heldSlots + (if new = .held then 1 else 0) - (if old = .held then 1 else 0)
    emptySlots := s.emptySlots + (if new = .empty then 1 else 0) - (if old = .empty then 1 else 0) }

/-- Changes a slot record: the counts follow the state (R26), the step becomes NONE when the state changes (R106), and a
change of state or latch re-evaluates the lamp policy, with a LAMP request when the lamp changes (R29). -/
def State.updateSlot (s : State) (k : SlotIx) (f : SlotRec → SlotRec) : State :=
  let old := s.slot k
  let new := f old
  let lamp := if old.state ≠ new.state ∨ old.latch ≠ new.latch then lampFor new.state new.latch else old.lamp
  let s := (s.setSlot k { new with lamp := lamp }).countSlots old.state new.state
  let s := if old.state ≠ new.state then s.modChip k (fun c => { c with step := .none }) else s
  if lamp ≠ old.lamp then s.requestLamp k else s

/-- Sets a slot's identification step (R106). -/
def State.setStep (s : State) (k : SlotIx) (step : IdStep) : State := s.modChip k (fun c => { c with step := step })

/-- A slot record that has become EMPTY: no key, attempts 0, stranger fields and STRANGER mark cleared (R27, R109). -/
def SlotRec.emptied (r : SlotRec) : SlotRec :=
  { r with state := .empty, key := noIndex, attempts := 0, reason := .unknownFob, fobSeen := 0, surveyFound := false,
           markStranger := false }

/-- A slot record that has become HELD naming a record: stranger reason, survey-found flag and STRANGER mark cleared,
the fob seen kept (R27). -/
def SlotRec.holding (r : SlotRec) (i : RecIx) : SlotRec :=
  { r with state := .held, key := ofIx i, reason := .unknownFob, surveyFound := false, markStranger := false }

/-- The stranger fields of a STRANGER slot that becomes UNVERIFIED or FAULT (R27); those of other slots are kept. -/
def SlotRec.strangerLeft (r : SlotRec) : SlotRec :=
  if r.state = .stranger then { r with reason := .unknownFob, fobSeen := 0, markStranger := false } else r

/-- A slot becomes EMPTY. -/
def State.emptySlot (s : State) (k : SlotIx) : State := s.updateSlot k SlotRec.emptied

/-- A slot enters IDENTIFYING: no key, attempts 0, step READING, READ FOB offered unless one is outstanding (R107). -/
def State.enterIdentifying (s : State) (k : SlotIx) : State :=
  let s := s.updateSlot k (fun r => { r with state := .identifying, key := noIndex, attempts := 0 })
  let s := s.setStep k .reading
  if (s.chip k).readOut then s else s.offerRead k

/-- A slot becomes STRANGER: reason and fob seen written, one STRANGER FOB event, and the STRANGER mark except for an
unknown fob in a survey-found slot (R113). -/
def State.becomeStranger (s : State) (k : SlotIx) (reason : Reason) (fob : Word) (holder : Option RecIx) : State :=
  let quiet := reason = .unknownFob && (s.slot k).surveyFound
  let s := s.updateSlot k (fun r => { r with state := .stranger, key := noIndex, reason := reason, fobSeen := fob })
  let s := s.tally .strangerFob (some (moduleOf k)) none
  if quiet then s else s.raiseSlotMark k .stranger holder

/-- A key comes to rest in a slot: record IN naming the slot, slot HELD naming the record, and a WRONG SLOT mark when
the slot is pinned to another fob (R34, R111). -/
def State.comeToRest (s : State) (k : SlotIx) (i : RecIx) : State :=
  let s := s.modKey i (fun r => { r with state := .resting, slot := ofIx k })
  let s := s.updateSlot k (fun r => r.holding i)
  if (s.slot k).pinned ∧ (s.slot k).pinnedFob ≠ (s.key i).fob then s.raiseSlotMark k .wrongSlot else s

/-! ## Slot orders (section 2.3) -/

/-- The result of a slot order on a slot in range: detail 0 and the slot number as index (R31). -/
def slotResult (code : Code) (k : SlotIx) : Result := { code := code, index := ofIx k }

/-- A slot order checks its slot number first (R31). -/
def withSlot (o : Order) (s : State) (act : SlotIx → State → State) : State :=
  match slotOf o.slotNumber with
  | some k => act k s
  | none => s.writeResult o.cell { code := .badParameter }

/-- The fob ID of the key a slot names, if it names one. -/
def State.namedFob (s : State) (k : SlotIx) : Option Word := (recOf (s.slot k).key).map (fun i => (s.key i).fob)

/-- PIN SLOT (R32). For an invalid fob ID, R7 gives every order the index 0xFFFF and R31 gives a slot order on a slot in
range the slot number whatever the result. DESIGN CHOICE (log entry 39), unsafe: R31 is followed. -/
def beginPinSlot (o : Order) (s : State) : State :=
  withSlot o s fun k s =>
    let fob := word o.byte 12
    if invalidFob fob then s.writeResult o.cell (slotResult .badParameter k)
    else if (s.slot k).state = .withdrawn then s.writeResult o.cell (slotResult .slotWithdrawn k)
    else if (s.namedFob k).any (· != fob) then s.writeResult o.cell (slotResult .slotOccupied k)
    else (s.modSlot k (fun r => { r with pinned := true, pinnedFob := fob })).writeResult o.cell (slotResult .ok k)

/-- UNPIN SLOT (R33). -/
def beginUnpinSlot (o : Order) (s : State) : State :=
  withSlot o s fun k s =>
    (s.modSlot k (fun r => { r with pinned := false, pinnedFob := 0 })).writeResult o.cell (slotResult .ok k)

/-- WITHDRAW SLOT (R35). -/
def beginWithdrawSlot (o : Order) (s : State) : State :=
  withSlot o s fun k s =>
    let r := s.slot k
    if r.state = .withdrawn then s.writeResult o.cell (slotResult .ok k)
    else if r.key ≠ noIndex ∨ r.latch ≠ .closed then s.writeResult o.cell (slotResult .slotOccupied k)
    else
      let s := s.updateSlot k (fun r =>
        { r with state := .withdrawn, attempts := 0, reason := .unknownFob, fobSeen := 0, surveyFound := false,
                 markStranger := false })
      s.writeResult o.cell (slotResult .ok k)

/-- RESTORE SLOT (R37); clearing the history clears the run-reported flag (R61). -/
def beginRestoreSlot (o : Order) (s : State) : State :=
  withSlot o s fun k s =>
    if (s.slot k).state ≠ .withdrawn then s.writeResult o.cell (slotResult .badParameter k)
    else
      let s := s.updateSlot k (fun r =>
        { r with state := .empty, history := 0, learned := false, baseline := 0, decided := false, attempts := 0,
                 fobSeen := 0, reason := .unknownFob })
      let s := s.modChip k (fun c => { c with runReported := false })
      s.writeResult o.cell (slotResult .ok k)

end Sys2Proof.Machine
end

