-- ==== Sys2Proof/Machine/LoanWatch.lean ====
section
/-! DEFINITION. The Loan Watch (chapter 7): the Due List, passes and their visits, the branch clock, the rebuild's
insertions, SET CLOCK. -/

namespace Sys2Proof.Machine

/-! ## The Due List (R127–R130, R136) -/

/-- How many entries stand before the place of a due minute: those due at or before it (R128). -/
def duePlace (l : List DueEntry) (due : Word) : Nat := (l.takeWhile (fun e => e.due.toNat ≤ due.toNat)).length

/-- A list with an entry put at a place. -/
def insertAt (l : List DueEntry) (n : Nat) (e : DueEntry) : List DueEntry := l.take n ++ e :: l.drop n

/-- A list without the entry at a place. -/
def removeAt (l : List DueEntry) (n : Nat) : List DueEntry := l.take n ++ l.drop (n + 1)

/-- An entry joins the Due List at its place by due minute; a running pass's cursor keeps its entries behind it (R128,
R136, log entry 12). -/
def Loans.insert (l : Loans) (i : RecIx) (due : Word) : Loans :=
  let n := duePlace l.due due
  { l with
    due := insertAt l.due n { key := i, due := due }
    pass := l.pass.map (fun p => if n < p.cursor then { p with cursor := p.cursor + 1 } else p) }

/-- A record's entry leaves the Due List, and the overdue count follows the level it leaves with; a record that has no
entry changes nothing (R129, R130, R136). When the entry was the last one visited, "behind the cursor" is judged from
then on by the last visited entry that remains, which is the model's choice (log entry 12). -/
def Loans.remove (l : Loans) (i : RecIx) (level : Nat) : Loans :=
  match l.due.findIdx? (fun e => e.key == i) with
  | none => l
  | some n =>
    { l with
      due := removeAt l.due n
      overdue := if 2 ≤ level then l.overdue - 1 else l.overdue
      pass := l.pass.map (fun p => if n < p.cursor then { p with cursor := p.cursor - 1 } else p) }

/-- The Due List inserts a record's entry. -/
def State.insertDue (s : State) (i : RecIx) (due : Word) : State := { s with loans := s.loans.insert i due }

/-- The Due List removes a record's entry, its level as the record holds it. -/
def State.removeDue (s : State) (i : RecIx) : State :=
  { s with loans := s.loans.remove i (s.key i).level.toNat }

/-- Every Due List room test counts the reservations as held places (R17, R85, R88). -/
def State.dueListFull (s : State) : Bool := Config.dueListSize ≤ s.loans.due.length + s.release.reservations

/-! ## Passes (R133–R135) -/

/-- A pass ends; a held minute event starts one ORDINARY pass at the current minute, which ends at once on an empty list
(R133, R135). -/
def Loans.endPass (l : Loans) : Loans :=
  if l.held && l.clockSet then
    { l with held := false
             pass := if l.due.isEmpty then none else some { minute := l.minute, full := false, cursor := 0 } }
  else { l with pass := none }

/-- A pass starts at the current minute; on an empty list it ends in the same event (R133). -/
def Loans.startPass (l : Loans) (full : Bool) : Loans :=
  if l.due.isEmpty then l.endPass else { l with pass := some { minute := l.minute, full := full, cursor := 0 } }

/-- The visit of an entry: the level and the announced level are written, the overdue count follows, and an announcement
is offered when it is owed (R134). -/
def State.visit (s : State) (p : Pass) (e : DueEntry) : State :=
  let r := s.key e.key
  let level := levelAt p.minute.toNat e.due.toNat s.params.grace s.params.escalation
  let announced := min r.announced.toNat level
  let overdue :=
    if r.level.toNat < 2 ∧ 2 ≤ level then s.loans.overdue + 1
    else if 2 ≤ r.level.toNat ∧ level < 2 then s.loans.overdue - 1 else s.loans.overdue
  let s := s.setKey e.key { r with level := BitVec.ofNat 4 level, announced := BitVec.ofNat 4 announced }
  let s := { s with loans := { s.loans with overdue := overdue, pass := some { p with cursor := p.cursor + 1 } } }
  if announcementOwed s.params level announced then
    s.offer (.loan e.key level (latenessOf p.minute.toNat e.due.toNat))
  else s

/-- The pass tests the entry after its cursor and visits it or ends (R134, R135). -/
def State.passStep (s : State) (p : Pass) : State :=
  match s.loans.due[p.cursor]? with
  | none => { s with loans := s.loans.endPass }
  | some e =>
    if !p.full && p.minute.toNat < e.due.toNat then { s with loans := s.loans.endPass } else s.visit p e

/-- PASS_VISIT (R134). -/
def execPassVisit (s : State) : Host.Outcome State Fault Refusal :=
  match s.loans.pass with
  | some p => done (s.passStep p).finish
  | none => done s

/-! ## The branch clock (R124–R126) -/

/-- A minute event: the second count returns to 0, the minute count rises and saturates, the Tally Unit gets its notice,
and with the clock set a pass starts or is held (R124, R125). While a rebuild runs with the clock not set, R125 does
nothing more and R138 has each minute event set the held flag. DESIGN CHOICE (log entry 37), unsafe: R125 is followed. -/
def State.minuteEvent (s : State) : State :=
  let minute : Word := if s.loans.minute = 0xFFFFFFFF then 0xFFFFFFFF else s.loans.minute + 1
  let s := { s with loans := { s.loans with second := 0, minute := minute } }.minuteNotice
  if !s.loans.clockSet then s
  else if s.loans.pass.isSome || s.loans.rebuild.isSome then { s with loans := { s.loans with held := true } }
  else { s with loans := s.loans.startPass false }

/-- SECOND_TICK: the second count rises; the tick at which it would reach 60 is the minute event (R124). -/
def execSecondTick (s : State) : Host.Outcome State Fault Refusal :=
  if s.loans.second + 1 < 60 then done { s with loans := { s.loans with second := s.loans.second + 1 } }
  else done s.minuteEvent

/-- MINUTE_EVENT: the tick at which the seconds reach 60; it is due only with the second count at 59 (R124, R125, log
entry 5). -/
def execMinuteEvent (s : State) : Host.Outcome State Fault Refusal :=
  if s.loans.second = 59 then done s.minuteEvent else done s

/-- SET CLOCK: minute count, seconds and set flag; a running pass is abandoned, the held flag cleared, and a FULL pass
starts (R126). -/
def beginSetClock (o : Order) (s : State) : State :=
  let l := { s.loans with minute := word o.byte 8, second := 0, clockSet := true, pass := none, held := false }
  { s with loans := l.startPass true }.writeResult o.cell { code := .ok }

end Sys2Proof.Machine
end

