-- ==== Sys2Proof/Machine/HandOut.lean ====
section
/-! DEFINITION. The Release Unit (chapter 5): contexts, latch requests and the latch budget, the opening and closing
replies, collection, expiry, settle, jammed latches, CANCEL HAND OUT, and what a sensor fault does to a hand-out. -/

namespace Sys2Proof.Machine

/-! ## Contexts (R84, R88) -/

/-- A release context: none when free. -/
def State.ctx (s : State) (c : CtxIx) : Option Context := s.release.contexts[c.val]

/-- Writes a release context. -/
def State.setCtx (s : State) (c : CtxIx) (x : Option Context) : State :=
  { s with release := { s.release with contexts := setAt s.release.contexts c x } }

/-- Changes a release context in use. -/
def State.modCtx (s : State) (c : CtxIx) (f : Context → Context) : State := s.setCtx c ((s.ctx c).map f)

/-- The free context of lowest number (R84). -/
def State.freeCtx (s : State) : Option CtxIx := (List.finRange 8).find? (fun c => (s.ctx c).isNone)

/-- The wait list of a module (R89). -/
def State.waitList (s : State) (m : ModIx) : List CtxIx := s.release.waitLists[m.val]

/-- Takes a context off its module's wait list; the waiting count follows (R84, R89). -/
def Release.leaveWaiting (r : Release) (m : ModIx) (c : CtxIx) : Release :=
  { r with waitLists := setAt r.waitLists m (r.waitLists[m.val].erase c), waitingCount := r.waitingCount - 1 }

/-- A context ends: it is free again, leaves its wait list, and gives back its reservation if it still holds one, that
is, while it refers to its key record (R84, R88). -/
def State.endCtx (s : State) (c : CtxIx) : State :=
  match s.ctx c with
  | none => s
  | some x =>
    let r := if x.state = .waiting then s.release.leaveWaiting (moduleOf x.slot) c else s.release
    { s with
      release :=
        { r with
          contexts := setAt r.contexts c none
          order := r.order.erase c
          reservations := if x.key.isSome then r.reservations - 1 else r.reservations } }

/-- The context that refers to the slot's key record: a presence report or a FAULT entry acts on it (R84). -/
def State.keyCtx (s : State) (k : SlotIx) : Option CtxIx :=
  s.release.order.find? (fun c => (s.ctx c).any (fun x => x.slot == k && x.key.isSome))

/-- The context a LATCH reply of the slot acts on: the older one while it is in use (R84). -/
def State.replyCtx (s : State) (k : SlotIx) : Option CtxIx :=
  s.release.order.find? (fun c => (s.ctx c).any (fun x => x.slot == k))

/-- A context writes its outcome into its HAND OUT cell: its number, its key record, the slot and the removal window
(R104). -/
def State.writeOutcome (s : State) (c : CtxIx) (x : Context) (code : Code) : State :=
  match x.cell with
  | none => s
  | some cell =>
    s.writeResult cell
      { code := code, detail := BitVec.ofNat 8 c.val, index := ofIx? x.key,
        data := [(24, le16 (ofIx x.slot)), (26, le16 (BitVec.ofNat 16 x.window))] }

/-- A tally event of the Release Unit: the slot's module and the key's class (R104). -/
def State.tallyKey (s : State) (kind : TallyKind) (k : SlotIx) (i : RecIx) : State :=
  s.tally kind (some (moduleOf k)) (some (s.key i).cls)

/-! ## Latch requests, budget and grant (R89, R90) -/

/-- The latch field while an action is outstanding (R90). -/
def Action.field : Action → Latch
  | .open_ => .opening
  | .close => .closing

/-- A latch action is asked for a slot: dropped when its module is not ONLINE, offered with the latch field written when
no request is outstanding, owed otherwise (R90). -/
def State.askLatch (s : State) (k : SlotIx) (a : Action) : State :=
  if !s.online (moduleOf k) then s
  else
    match (s.chip k).latchOut with
    | some _ => s.modChip k (fun c => { c with latchOwed := some a })
    | none =>
      let s := (s.offerLine (.latch k a)).modChip k (fun c => { c with latchOut := some a })
      s.updateSlot k (fun r => { r with latch := a.field })

/-- At a reply, an owed action is offered (R90). -/
def State.offerOwed (s : State) (k : SlotIx) : State :=
  match (s.chip k).latchOwed with
  | none => s
  | some a => (s.modChip k (fun c => { c with latchOwed := none })).askLatch k a

/-- The number of slots of a module whose latch field is not CLOSED (R89). -/
def State.latchCount (s : State) (m : ModIx) : Nat := ((slotsOf m).filter (fun k => (s.slot k).latch ≠ .closed)).length

/-- A waiting context is granted its latch: it leaves the list, becomes OPENING, and LATCH open is asked (R89). -/
def State.grant (s : State) (m : ModIx) (c : CtxIx) : State :=
  match s.ctx c with
  | none => s
  | some x =>
    let s := { s with release := s.release.leaveWaiting m c }
    (s.setCtx c (some { x with state := .opening })).askLatch x.slot .open_

/-- Grants along a wait list while the module's count is below two (R89). -/
def State.grantAlong (s : State) (m : ModIx) : List CtxIx → State
  | [] => s
  | c :: cs => if s.latchCount m < Config.latchBudget then (s.grant m c).grantAlong m cs else s

/-- A latch of the module has become CLOSED: its wait list is examined (R89). -/
def State.grantWaiting (s : State) (m : ModIx) : State := s.grantAlong m (s.waitList m)

/-! ## Acceptance (R87–R89) -/

/-- A hand-out is accepted: record and slot RELEASING, the context filled, a place reserved, and the latch granted or
the context made WAITING (R87, R89). -/
def State.accept (s : State) (e : Execution) (i : RecIx) (k : SlotIx) (c : CtxIx) : State :=
  let m := moduleOf k
  let s := s.modKey i (fun r => { r with state := .releasing })
  let s := s.updateSlot k (fun r => { r with state := .releasing })
  let x : Context :=
    { state := .waiting, cell := some e.order.cell, key := some i, slot := k, agreement := word e.order.byte 12,
      due := word e.order.byte 16, window := e.window, cancelNoted := false, removalDecided := false, timer := false,
      settle := none }
  let s := { s with release := { s.release with order := s.release.order ++ [c]
                                                reservations := s.release.reservations + 1 } }
  let s := s.tallyKey .handoutAccepted k i
  if s.latchCount m < Config.latchBudget ∧ s.waitList m = [] then
    (s.setCtx c (some { x with state := .opening })).askLatch k .open_
  else
    let s := s.setCtx c (some x)
    let s := { s with release := { s.release with waitLists := setAt s.release.waitLists m (s.waitList m ++ [c])
                                                  waitingCount := s.release.waitingCount + 1 } }
    s.tallyKey .latchWait k i

/-! ## Outcomes (R91–R97) -/

/-- The hand-out ends with the key in its slot: record IN, slot HELD, both keeping their mutual reference (R91, R97,
R100). -/
def State.backToHeld (s : State) (i : RecIx) (k : SlotIx) : State :=
  (s.modKey i (fun r => { r with state := .resting })).updateSlot k (fun r => r.holding i)

/-- The loan opens: record OUT with the context's agreement and due minute, the Due List entry inserted in the place the
context reserved (R88, R93). -/
def State.openLoan (s : State) (x : Context) (i : RecIx) : State :=
  let now := s.loans.minute
  let s := s.modKey i (fun r =>
    { r with state := .out, slot := noIndex, agreement := x.agreement, due := x.due, handOut := now, level := 0,
             announced := 0 })
  let s := s.insertDue i x.due
  { s with release := { s.release with reservations := s.release.reservations - 1 } }

/-- A removal decided while the context is OPENING or OPEN is a collection (R93). -/
def State.collect (s : State) (c : CtxIx) (x : Context) (i : RecIx) : State :=
  let s := (s.openLoan x i).emptySlot x.slot
  let s := s.writeOutcome c x .collected
  let s := s.tallyKey .collected x.slot i
  let s := s.setCtx c (some { x with state := .closing, cell := none, key := none, timer := false })
  s.askLatch x.slot .close

/-- A removal decided while the context is WAITING is a forced removal (R94). -/
def State.removedWaiting (s : State) (c : CtxIx) (x : Context) (i : RecIx) : State :=
  let s := s.modKey i (fun r => { r with state := .missing, slot := noIndex })
  let s := (s.raiseKeyMark i .forcedRemoval x.slot).emptySlot x.slot
  let s := s.writeOutcome c x .keyRemoved
  (s.tallyKey .forcedRemoval x.slot i).endCtx c

/-- A removal decided while the context is RELATCHING is a late collection; with its settle begun the context ends
(R95). -/
def State.takenLate (s : State) (c : CtxIx) (x : Context) (i : RecIx) : State :=
  let s := (s.openLoan x i).emptySlot x.slot
  let s := s.writeOutcome c x .takenLate
  let s := s.tallyKey .takenLate x.slot i
  let s := s.setCtx c (some { x with cell := none, key := none, removalDecided := true })
  if x.settle.isSome then s.endCtx c else s

/-- The Presence Engine reports a slot RELEASING or RELATCHING decided ABSENT (R54, R93–R95). -/
def State.removal (s : State) (k : SlotIx) : State :=
  match s.keyCtx k with
  | none => s
  | some c =>
    match s.ctx c with
    | none => s
    | some x =>
      match x.key with
      | none => s
      | some i =>
        match x.state with
        | .waiting => s.removedWaiting c x i
        | .opening => s.collect c x i
        | .opened => s.collect c x i
        | .relatching => s.takenLate c x i
        | .closing => s

/-- The removal time is over: LATCH close is asked, context and slot become RELATCHING (R92). -/
def State.beginRelatch (s : State) (c : CtxIx) (x : Context) : State :=
  let s := s.askLatch x.slot .close
  let s := s.setCtx c (some { x with state := .relatching, timer := false })
  s.updateSlot x.slot (fun r => { r with state := .relatching })

/-- The settle ends with the key still present (R97). -/
def State.endSettle (s : State) (c : CtxIx) (x : Context) : State :=
  match x.key with
  | none => s.endCtx c
  | some i =>
    let s := s.backToHeld i x.slot
    if x.cancelNoted then (s.writeOutcome c x .cancelled).endCtx c
    else ((s.writeOutcome c x .notCollected).tallyKey .notCollected x.slot i).endCtx c

/-- A reply-processed notice reaches a context in its settle: the count falls by 1, and at 0 the context ends (R97). -/
def State.settleNotice (s : State) (c : CtxIx) : State :=
  match s.ctx c with
  | none => s
  | some x =>
    match x.settle with
    | none => s
    | some n => if n ≤ 1 then s.endSettle c x else s.setCtx c (some { x with settle := some (n - 1) })

/-- A reply-processed notice for a module reaches its settles, in ascending context number (R54, R97). -/
def State.replyProcessed (s : State) (m : ModIx) : State :=
  (List.finRange 8).foldl
    (fun s c => if (s.ctx c).any (fun x => moduleOf x.slot == m) then s.settleNotice c else s) s

/-! ## LATCH replies (R91, R96) -/

/-- The end of a LATCH reply: the owed action is offered, and a CLOSED latch may grant a waiting context (R89, R96). -/
def State.afterLatch (s : State) (k : SlotIx) : State :=
  let s := s.offerOwed k
  if (s.slot k).latch = .closed then s.grantWaiting (moduleOf k) else s

/-- A LATCH reply: no request is outstanding, and a latch that did not reach the commanded position gets its LATCH FAULT
mark, whatever the context (R28, R90). -/
def State.latchAnswered (s : State) (k : SlotIx) (reached : Bool) : State :=
  let s := s.modChip k (fun c => { c with latchOut := none, reissued := false })
  if reached then s else s.raiseSlotMark k .latchFault

/-- The opening failed: the context ends LATCH FAULT with the key IN (R91). -/
def State.openingFailed (s : State) (c : CtxIx) (x : Context) (k : SlotIx) : State :=
  let s := match x.key with
    | some i => s.backToHeld i k
    | none => s
  (s.writeOutcome c x .latchFault).endCtx c

/-- The latch field a sensed latch gives (R91). -/
def Sensed.field : Sensed → Latch
  | .opened => .opened
  | .jammed => .jammed
  | .closed => .closed

/-- The context part of a reply to an open request (R91). -/
def State.openReplyCtx (s : State) (k : SlotIx) (sensed : Sensed) (c : CtxIx) (x : Context) : State :=
  match x.state with
  | .opening =>
    if sensed = .opened then
      if x.cancelNoted then
        let s := s.updateSlot k (fun r => { r with latch := .opened, state := .relatching })
        (s.setCtx c (some { x with state := .relatching })).askLatch k .close
      else
        let s := s.updateSlot k (fun r => { r with latch := .opened })
        s.setCtx c (some { x with state := .opened, timer := true })
    else (s.updateSlot k (fun r => { r with latch := sensed.field })).openingFailed c x k
  | .closing =>
    let s := s.updateSlot k (fun r => { r with latch := sensed.field })
    if sensed = .closed then (s.modChip k (fun c => { c with latchOwed := none })).endCtx c else s
  | _ => s.updateSlot k (fun r => { r with latch := sensed.field })

/-- A reply to an open request; a latch that did not open gets its LATCH FAULT mark (R28, R91, log entry 13). -/
def State.openReply (s : State) (k : SlotIx) (sensed : Sensed) : State :=
  let s := s.latchAnswered k (sensed = .opened)
  let s := match s.replyCtx k with
    | none => s.updateSlot k (fun r => { r with latch := sensed.field })
    | some c =>
      match s.ctx c with
      | none => s.updateSlot k (fun r => { r with latch := sensed.field })
      | some x => s.openReplyCtx k sensed c x
  s.afterLatch k

/-- The context part of a reply to a close request (R96). -/
def State.closeReplyCtx (s : State) (c : CtxIx) (x : Context) : State :=
  match x.state with
  | .closing => s.endCtx c
  | .relatching =>
    if x.removalDecided then s.endCtx c
    else if x.settle.isSome then s
    else s.setCtx c (some { x with settle := some (s.params.confirmCount + 1) })
  | _ => s

/-- A reply to a close request; a latch that did not close is JAMMED and gets its LATCH FAULT mark (R96, R99). -/
def State.closeReply (s : State) (k : SlotIx) (sensed : Sensed) : State :=
  let s := s.latchAnswered k (sensed = .closed)
  let s := s.updateSlot k (fun r => { r with latch := if sensed = .closed then .closed else .jammed })
  let s := match s.replyCtx k with
    | none => s
    | some c =>
      match s.ctx c with
      | none => s
      | some x => s.closeReplyCtx c x
  s.afterLatch k

/-- A LATCH reply is handed to the Release Unit (R82). -/
def State.latchReplied (s : State) (k : SlotIx) (a : Action) (sensed : Sensed) : State :=
  match a with
  | .open_ => s.openReply k sensed
  | .close => s.closeReply k sensed

/-! ## Jammed latches (R98) -/

/-- Whether a jammed latch is due a re-issued close (R98). -/
def State.reissueDue (s : State) (k : SlotIx) : Bool :=
  (s.slot k).latch == .jammed && s.online (moduleOf k) && (s.chip k).latchOut.isNone && (s.chip k).latchOwed.isNone

/-- A re-issued close: LATCH close is asked, and the request outstanding is noted as a re-issue (R98, R99). -/
def State.reissueClose (s : State) (k : SlotIx) : State :=
  (s.askLatch k .close).modChip k (fun c => { c with reissued := true })

/-- LATCH close is offered for every jammed latch that is due it, in ascending slot number (R98). -/
def State.reissueCloses (s : State) : State :=
  (List.finRange 384).foldl (fun s k => if s.reissueDue k then s.reissueClose k else s) s

/-- A round-end notice: the count rises, and at 8 it returns to 0 and the closes are re-issued (R98). -/
def State.roundEndNotice (s : State) : State :=
  if s.release.roundEnds + 1 < 8 then
    { s with release := { s.release with roundEnds := s.release.roundEnds + 1 } }
  else { s with release := { s.release with roundEnds := 0 } }.reissueCloses

/-! ## CANCEL HAND OUT (R100) -/

/-- The context that refers to a HAND OUT cell. -/
def State.cellCtx (s : State) (cell : Nat) : Option CtxIx :=
  (List.finRange 8).find? (fun c => (s.ctx c).any (fun x => x.cell.any (fun i => i.val == cell)))

/-- The effect of an accepted cancel on its hand-out, or none when the context cannot be cancelled (R100). -/
def State.cancelled (s : State) (c : CtxIx) (x : Context) : Option State :=
  match x.state with
  | .waiting =>
    let s := match x.key with
      | some i => s.backToHeld i x.slot
      | none => s
    some ((s.writeOutcome c x .cancelled).endCtx c)
  | .opening => if x.cancelNoted then none else some (s.setCtx c (some { x with cancelNoted := true }))
  | .opened => some (s.beginRelatch c { x with cancelNoted := true })
  | .relatching => none
  | .closing => none

/-- CANCEL HAND OUT (R100). -/
def beginCancelHandOut (o : Order) (s : State) : State :=
  let refuse (code : Code) : State := s.writeResult o.cell { code := code }
  if 31 < (o.byte 8).toNat then refuse .badParameter
  else
    match s.cellCtx (o.byte 8).toNat with
    | none => refuse .notCancellable
    | some c =>
      match s.ctx c with
      | none => refuse .notCancellable
      | some x =>
        match s.cancelled c x with
        | none => refuse .notCancellable
        | some s' => s'.writeResult o.cell { code := .ok, detail := BitVec.ofNat 8 c.val, index := ofIx? x.key }

/-! ## Failures (R40, R102, R103) -/

/-- The record a slot names becomes CHECK (R38, R40). -/
def State.checkNamed (s : State) (k : SlotIx) : State :=
  match recOf (s.slot k).key with
  | some i => s.modKey i (fun r => { r with state := .check })
  | none => s

/-- A context whose slot enters FAULT ends SENSOR FAULT; LATCH close is asked unless the latch is CLOSED with no open
request outstanding (R103). A settle begun by a JAMMED close has its latch JAMMED, or CLOSING behind a re-issued close,
where R103 both asks the close and says that a slot in its settle has its latch closed. DESIGN CHOICE (log entry 35),
unsafe: the latch field alone decides, so the close is asked there too. -/
def State.sensorFaultEnd (s : State) (k : SlotIx) : State :=
  match s.keyCtx k with
  | none => s
  | some c =>
    match s.ctx c with
    | none => s
    | some x =>
      let s := if (s.slot k).latch ≠ .closed ∨ (s.chip k).latchOut = some .open_ then s.askLatch k .close else s
      (s.writeOutcome c x .sensorFault).endCtx c

/-- A slot enters FAULT: its named record becomes CHECK, attempts 0, the SLOT FAULT mark is set, and a hand-out of its
key ends (R40, R103). -/
def State.enterFault (s : State) (k : SlotIx) : State :=
  let st := (s.slot k).state
  let named := st = .held ∨ st = .releasing ∨ st = .relatching
  let s := if named then s.checkNamed k else s
  let s := s.updateSlot k (fun r => { r.strangerLeft with state := .fault, attempts := 0 })
  let s := s.raiseSlotMark k .slotFault
  if st = .releasing ∨ st = .relatching then s.sensorFaultEnd k else s

/-- The contexts of a lost module end: MODULE LOST when WAITING, LINE FAILURE while they refer to their key, silently
otherwise (R102). -/
def State.lossCtx (s : State) (m : ModIx) (c : CtxIx) : State :=
  match s.ctx c with
  | none => s
  | some x =>
    if moduleOf x.slot ≠ m then s
    else
      match x.key with
      | none => s.endCtx c
      | some _ => (s.writeOutcome c x (if x.state = .waiting then .moduleLost else .lineFailure)).endCtx c

/-- The change of a slot at its module's loss (R38): states that cannot be trusted become UNVERIFIED, the record a slot
names becomes CHECK, and every request of the slot is gone (R74, R90, R106). -/
def State.lossSlot (s : State) (k : SlotIx) : State :=
  let st := (s.slot k).state
  let s := s.modChip k (fun c => { c with readOut := false, latchOut := none, latchOwed := none, reissued := false })
  match st with
  | .held => (s.checkNamed k).updateSlot k (fun r => { r with state := .unverified, attempts := 0 })
  | .releasing => (s.checkNamed k).updateSlot k (fun r => { r with state := .unverified, attempts := 0 })
  | .relatching => (s.checkNamed k).updateSlot k (fun r => { r with state := .unverified, attempts := 0 })
  | .identifying => s.updateSlot k (fun r => { r with state := .unverified, attempts := 0 })
  | .stranger => s.updateSlot k (fun r => { r.strangerLeft with state := .unverified, attempts := 0 })
  | .unverified => (s.modSlot k (fun r => { r with attempts := 0 })).setStep k .none
  | .empty => s
  | .withdrawn => s
  | .fault => s

/-- The soft reset frees a context: a key still in hand becomes CHECK and its slot UNVERIFIED (R42, R105). -/
def State.resetCtx (s : State) (c : CtxIx) : State :=
  match s.ctx c with
  | none => s
  | some x =>
    match x.key with
    | none => s
    | some i =>
      (s.modKey i (fun r => { r with state := .check })).updateSlot x.slot (fun r => { r with state := .unverified })

/-! ## Commands -/

/-- REMOVAL_TIMER_EXPIRY: the removal timer of an OPEN context expires (R92). -/
def execRemovalTimerExpiry (c : CtxIx) (s : State) : Host.Outcome State Fault Refusal :=
  match s.ctx c with
  | none => done s
  | some x => if x.state = .opened ∧ x.timer then done (s.beginRelatch c x).finish else done s

/-- SETTLE_END: the notice that brings a context's settle count to 0 (R97, log entry 5). -/
def execSettleEnd (c : CtxIx) (s : State) : Host.Outcome State Fault Refusal :=
  match s.ctx c with
  | none => done s
  | some x => if x.settle = some 1 then done (s.endSettle c x).finish else done s

/-- JAM_REISSUE: the round-end notice that brings the round-end count to 8 (R98, log entry 5). -/
def execJamReissue (s : State) : Host.Outcome State Fault Refusal :=
  if s.release.roundEnds = 7 then done s.roundEndNotice.finish else done s

end Sys2Proof.Machine
end

