-- ==== Sys2Proof/Machine/Returns.lean ====
section
/-! DEFINITION. The Directory Walker's requests, grants and steps (sections 1.2 and 1.4), and the Slot Supervisor's side of
returns and unexplained movements (chapter 6): lookup results, fob reads, presence reports. -/

namespace Sys2Proof.Machine

/-! ## Lookup results (R111–R116) -/

/-- The return of a record in state OUT closes its loan (R115). -/
def State.closeLoan (s : State) (i : RecIx) (k : SlotIx) : State :=
  let r := s.key i
  let s := s.removeDue i
  let s := s.modKey i (fun r =>
    { r with lateness := BitVec.ofNat 16 (latenessOf s.now r.due.toNat)
             closedLoans := saturate (r.closedLoans.toNat + 1) 16, level := 0, announced := 0 })
  let s := if 1 ≤ r.announced.toNat then s.raiseKeyMark i .returnedLate k else s
  s.tallyKey (if 2 ≤ r.level.toNat then .returnLate else .returnOnTime) k i

/-- The slot a CHECK record named drops its key reference and keeps its state (R116, R123). -/
def State.dropReference (s : State) (i : RecIx) : State :=
  match slotOf (s.key i).slot with
  | some k => s.modSlot k (fun r => { r with key := noIndex })
  | none => s

/-- A lookup result is applied to an IDENTIFYING slot by the custody state of the record found (R112, R113, R116). -/
def State.identified (s : State) (k : SlotIx) (fob : Word) (found : Option RecIx) : State :=
  match found with
  | none => s.becomeStranger k .unknownFob fob none
  | some i =>
    match (s.key i).state with
    | .awaited => s.comeToRest k i
    | .out => (s.closeLoan i k).comeToRest k i
    | .missing => (s.raiseKeyMark i .keyBack k).comeToRest k i
    | .lost => (s.raiseKeyMark i .keyBack k).comeToRest k i
    | .check => (s.dropReference i).comeToRest k i
    | .resting => s.becomeStranger k .duplicate fob (some i)
    | .releasing => s.becomeStranger k .duplicate fob (some i)
    | .unused => s.becomeStranger k .unknownFob fob none

/-- The hand-back of a Slot Supervisor lookup: applied when the slot is IDENTIFYING with step LOOKING for the same fob,
discarded otherwise (R111). -/
def State.lookupResult (s : State) (k : SlotIx) (fob : Word) (found : Option RecIx) : State :=
  if (s.slot k).state = .identifying ∧ (s.chip k).step = .looking ∧ (s.slot k).fobSeen = fob then
    s.identified k fob found
  else s

/-! ## The Walker (R4, R12–R14) -/

/-- A walk begins: its home index with the H in force, its cursor at the head of the chain (R4, R14); a HOME SPAN walk
steps on no chain (R16). -/
def State.startWalk (s : State) (asker : Asker) (fob : Word) (chain : Bool) : State :=
  let h := homeIndex fob s.params.homeSpan
  let cursor := if chain then s.home h else noIndex
  { s with walker := { s.walker with walk := some { asker := asker, fob := fob, home := h, cursor := cursor, depth := 0,
                                                    pred := none, found := none } } }

/-- The Walker, free, grants its next request: the oldest Slot Supervisor request, otherwise the Order Unit's; a lookup
for an invalid fob is answered NOT FOUND at its grant (R7, R13), after the orders that began in the event (log entry
33). -/
def State.grantNext (s : State) : List SlotRequest → State
  | [] =>
    let s := { s with walker := { s.walker with slotRequests := [] } }
    match s.walker.orderRequest with
    | none => s
    | some q => { s with walker := { s.walker with orderRequest := none } }.startWalk .order q.fob q.chain
  | q :: qs =>
    if invalidFob q.fob then (s.lookupResult q.slot q.fob none).grantNext qs
    else { s with walker := { s.walker with slotRequests := qs } }.startWalk (.slot q.slot) q.fob true

/-- A slot's request joins the list, or replaces the fob ID of its earlier request in place (R13). -/
def joinRequests (q : SlotRequest) (l : List SlotRequest) : List SlotRequest :=
  if l.any (fun r => r.slot == q.slot) then l.map (fun r => if r.slot = q.slot then q else r) else l ++ [q]

/-- The Slot Supervisor requests a lookup: granted at once by a free Walker, waiting otherwise (R13). -/
def State.requestLookup (s : State) (k : SlotIx) (fob : Word) : State :=
  let l := joinRequests ⟨k, fob⟩ s.walker.slotRequests
  if s.walker.walk.isSome then { s with walker := { s.walker with slotRequests := l } } else s.grantNext l

/-- The Order Unit requests a walk: granted at once by a free Walker, waiting otherwise (R13). -/
def State.requestWalk (s : State) (fob : Word) (chain : Bool) : State :=
  if s.walker.walk.isSome then
    { s with walker := { s.walker with orderRequest := some { fob := fob, chain := chain } } }
  else s.startWalk .order fob chain

/-- Whether a walk has reached its end: the match, or the end of its chain (R14). -/
def Walk.ended (w : Walk) : Bool := w.found.isSome || (recOf w.cursor).isNone

/-- One step of a walk: it examines the record at its cursor and raises one DIRECTORY STEP event (R14). -/
def State.stepWalk (s : State) (w : Walk) (i : RecIx) : State :=
  let r := s.key i
  let w' : Walk :=
    if r.state ≠ .unused ∧ r.fob = w.fob then { w with depth := w.depth + 1, found := some i }
    else { w with depth := w.depth + 1, pred := some i, cursor := r.next }
  { s with walker := { s.walker with walk := some w' } }.tally .directoryStep none none

/-- WALK_STEP: due while a walk runs and has a record at its cursor (R14). -/
def execWalkStep (s : State) : Host.Outcome State Fault Refusal :=
  match s.walker.walk with
  | none => done s
  | some w =>
    if w.found.isSome then done s
    else
      match recOf w.cursor with
      | none => done s
      | some i => done (s.stepWalk w i)

/-! ## Fob reads (R108, R109, R120, R121) -/

/-- An identification read is applied (R109). -/
def State.identificationRead (s : State) (k : SlotIx) (fob : Option Word) : State :=
  let n := (s.slot k).attempts + 1
  let s := s.modSlot k (fun r => { r with attempts := n })
  match fob with
  | some f => ((s.modSlot k (fun r => { r with fobSeen := f })).setStep k .looking).requestLookup k f
  | none => if n.toNat < 3 then s.offerRead k else s.becomeStranger k .unreadable 0 none

/-- The key an UNVERIFIED slot named is not there: record MISSING with a KEY UNACCOUNTED mark and event (R119, R120). -/
def State.keyUnaccounted (s : State) (k : SlotIx) (i : RecIx) : State :=
  let s := s.modKey i (fun r => { r with state := .missing, slot := noIndex })
  (s.raiseKeyMark i .keyUnaccounted k).tallyKey .keyUnaccounted k i

/-- A verification read is applied to a slot naming record `i` (R120). -/
def State.verificationRead (s : State) (k : SlotIx) (i : RecIx) (fob : Option Word) : State :=
  let n := (s.slot k).attempts + 1
  let s := s.modSlot k (fun r => { r with attempts := n })
  match fob with
  | some f =>
    if f = (s.key i).fob then
      (s.modKey i (fun r => { r with state := .resting })).updateSlot k (fun r => r.holding i)
    else
      let s := s.keyUnaccounted k i
      let s := s.updateSlot k (fun r => { r with state := .identifying, key := noIndex, fobSeen := f, attempts := 0 })
      (s.setStep k .looking).requestLookup k f
  | none =>
    if n.toNat < 3 then s.offerRead k
    else (s.keyUnaccounted k i).becomeStranger k .unreadable 0 none

/-- The coming read of a VERIFYING slot that has lost its key: the slot becomes IDENTIFYING with step READING, and the
read is an identification read (R121). -/
def State.readAfterLoss (s : State) (k : SlotIx) (fob : Option Word) : State :=
  let s := s.updateSlot k (fun r => { r with state := .identifying, attempts := 0 })
  (s.setStep k .reading).identificationRead k fob

/-- A READ FOB reply is handed to the Slot Supervisor: its flag is cleared, and it acts by the slot's state and step
(R108). -/
def State.fobRead (s : State) (k : SlotIx) (fob : Option Word) : State :=
  let s := s.modChip k (fun c => { c with readOut := false })
  if (s.slot k).state = .identifying ∧ (s.chip k).step = .reading then s.identificationRead k fob
  else if (s.slot k).state = .unverified ∧ (s.chip k).step = .verifying then
    match recOf (s.slot k).key with
    | some i => s.verificationRead k i fob
    | none => s.readAfterLoss k fob
  else s

/-! ## Presence reports (R107, R110, R114, R117–R119, R121, R122, R41) -/

/-- A HELD slot is decided ABSENT: a forced removal (R114). -/
def State.forcedRemoval (s : State) (k : SlotIx) : State :=
  match recOf (s.slot k).key with
  | none => s.emptySlot k
  | some i =>
    let s := s.modKey i (fun r => { r with state := .missing, slot := noIndex })
    let s := (s.raiseKeyMark i .forcedRemoval k).emptySlot k
    s.tallyKey .forcedRemoval k i

/-- An UNVERIFIED slot is confirmed ABSENT (R119, R121, R122). -/
def State.unverifiedAbsent (s : State) (k : SlotIx) : State :=
  match recOf (s.slot k).key with
  | some i => (s.keyUnaccounted k i).emptySlot k
  | none => s.emptySlot k

/-- An UNVERIFIED slot is confirmed PRESENT: with step NONE, a key it names is verified, and other content is identified
(R118, R122). -/
def State.unverifiedPresent (s : State) (k : SlotIx) : State :=
  if (s.chip k).step ≠ .none then s
  else
    match recOf (s.slot k).key with
    | some _ =>
      let s := (s.modSlot k (fun r => { r with attempts := 0 })).setStep k .verifying
      if (s.chip k).readOut then s else s.offerRead k
    | none => s.enterIdentifying k

/-- A slot leaves FAULT on N agreeing valid verdicts (R41); clearing its history clears the run-reported flag (R61). -/
def State.leaveFault (s : State) (k : SlotIx) (present : Bool) : State :=
  match recOf (s.slot k).key with
  | some _ =>
    (s.updateSlot k (fun r => { r with state := .unverified, history := 0 })).modChip k
      (fun c => { c with runReported := false })
  | none => if present then s.enterIdentifying k else s.emptySlot k

/-- A confirmation or decision change is reported for a slot and acted on by its state (R54 and chapter 6). -/
def State.presenceReport (s : State) (k : SlotIx) (present : Bool) : State :=
  match (s.slot k).state, present with
  | .empty, true => s.enterIdentifying k
  | .empty, false => s
  | .identifying, true => s
  | .identifying, false => s.emptySlot k
  | .held, true => s
  | .held, false => s.forcedRemoval k
  | .stranger, true => s
  | .stranger, false => s.emptySlot k
  | .releasing, true => s
  | .releasing, false => s.removal k
  | .relatching, true => s
  | .relatching, false => s.removal k
  | .unverified, true => s.unverifiedPresent k
  | .unverified, false => s.unverifiedAbsent k
  | .fault, p => s.leaveFault k p
  | .withdrawn, _ => s

end Sys2Proof.Machine
end

