-- ==== Sys2Proof/Machine/Presence.lean ====
section
/-! DEFINITION. The Presence Engine (chapter 3): what one count does to its slot, the hand-over of a COUNTS reply, and the
seeding of a surveyed module. -/

namespace Sys2Proof.Machine

/-- What the Engine decides of one count before any report: verdict, new history, whether the run was reported before,
whether the decision changes, and whether the run is confirmed. -/
structure Sensing where
  verdict : Verdict
  history : Word
  reported : Bool
  decides : Bool
  confirms : Bool
  deriving DecidableEq, Repr

/-- The Engine's judgement of a count at a slot that is not WITHDRAWN (R45–R51). -/
def sense (p : Params) (r : SlotRec) (reported : Bool) (c : Half) : Sensing :=
  let v := verdictOf p r c
  let h := pushVerdict r.history v
  let reported := newest r.history == v.code && reported
  let confirmed := v != .invalid && p.confirmCount ≤ runOf h v
  { verdict := v, history := h, reported := reported,
    decides := confirmed && r.decided != (v == .present), confirms := confirmed && !reported }

/-- The slot record after a count's verdict: raw count, history, decision, and the baseline a first valid count learns
(R43, R47, R49, R50). -/
def SlotRec.sensed (r : SlotRec) (c : Half) (v : Sensing) : SlotRec :=
  { r with
    raw := c
    history := v.history
    decided := if v.decides then v.verdict == .present else r.decided
    baseline := if !r.learned && v.verdict != .invalid then BitVec.ofNat 16 (16 * c.toNat) else r.baseline
    learned := r.learned || v.verdict != .invalid }

/-- Hands on the report a verdict gives: a FAULT entry at the eighth INVALID, or a confirmation (R50–R54). -/
def State.report (s : State) (k : SlotIx) (v : Sensing) : State :=
  if v.verdict = .invalid then
    if runOf v.history .invalid = 8 ∧ (s.slot k).state ≠ .fault then s.enterFault k else s
  else if v.confirms ∨ v.decides then s.presenceReport k (v.verdict == .present)
  else s

/-- The drift of a baseline: for an ABSENT verdict of a learned baseline, with the decision ABSENT and the slot EMPTY
before the count and after its reports (R55). -/
def State.drift (s : State) (k : SlotIx) (before : SlotRec) (v : Sensing) (c : Half) : State :=
  let r := s.slot k
  if v.verdict = .absent ∧ before.learned ∧ before.state = .empty ∧ r.state = .empty ∧ !r.decided then
    s.modSlot k (fun r => { r with baseline := drifted s.params.driftShift r.baseline c })
  else s

/-- One count of a reply is processed for its slot (R43). -/
def State.processCount (s : State) (k : SlotIx) (c : Half) : State :=
  let r := s.slot k
  if r.state = .withdrawn then s.modSlot k (fun r => { r with raw := c })
  else
    let v := sense s.params r (s.chip k).runReported c
    let s := s.setSlot k (r.sensed c v)
    let s := s.modChip k (fun x => { x with runReported := v.reported || v.confirms })
    (s.report k v).drift k r v c

/-- A COUNTS reply is handed over: discarded whole as STALE COUNTS under another window, else processed for its 24 slots
in ascending position and followed by the reply-processed notice (R43, R44, R54). -/
def State.handCounts (s : State) (m : ModIx) (counts : List Half) (window : Nat) : State :=
  if window ≠ s.params.window then s.tally .staleCounts (some m) none
  else
    let s := (List.finRange 24).foldl (fun s p => s.processCount (slotAt m p) (counts.getD p.val 0)) s
    s.replyProcessed m

/-- The Engine's seeding of one slot from its survey count and its read result; a position whose read was skipped has
none and takes the INVALID row (R60, R174). The run-reported flag is set (R59). -/
def State.seedSlot (s : State) (k : SlotIx) (c : Half) (result : Option (Option Word)) : State :=
  let seed := s.params.seedDelta
  let s := s.modSlot k (fun r =>
    match (if invalidCount c then none else result) with
    | none => { r with raw := c, history := 0, decided := false }
    | some (some _) =>
      { r with raw := c, baseline := seeded c seed, learned := true, history := 0xAAAAAAAA, decided := true }
    | some none =>
      { r with raw := c, baseline := BitVec.ofNat 16 (16 * c.toNat), learned := true, history := 0x55555555,
               decided := false })
  s.modChip k (fun x => { x with runReported := true })

end Sys2Proof.Machine
end

