-- ==== Sys2Proof/Machine/Directory.lean ====
section
/-! DEFINITION. The orders that walk the directory: ENROL KEY, RETIRE KEY, ARM KEY, DISARM KEY, FIND KEY (chapter 1), HAND
OUT (chapter 5), DECLARE LOST (chapter 6), EXTEND LOAN (chapter 7) and the HOME SPAN walk (R16): the event in which each
begins, and what each does in its walk's completion event. -/

namespace Sys2Proof.Machine

/-! ## Beginning (R7, R13, R162) -/

/-- The Order Unit goes on holding an order until its walk completes. -/
def State.awaitWalk (s : State) (o : Order) (window : Nat) (fob : Word) (chain : Bool) : State :=
  { s with board := { s.board with execution := some { order := o, window := window } } }.requestWalk fob chain

/-- An order whose fob ID is invalid ends BAD PARAMETER before any Walker request (R7). -/
def withFob (o : Order) (s : State) (act : State → State) : State :=
  if invalidFob o.fob then s.writeResult o.cell { code := .badParameter } else act s

/-- ENROL KEY begins (R17). -/
def beginEnrolKey (o : Order) (s : State) : State := withFob o s (fun s => s.awaitWalk o 0 o.fob true)

/-- RETIRE KEY begins (R20). -/
def beginRetireKey (o : Order) (s : State) : State := withFob o s (fun s => s.awaitWalk o 0 o.fob true)

/-- ARM KEY begins (R21). -/
def beginArmKey (o : Order) (s : State) : State := withFob o s (fun s => s.awaitWalk o 0 o.fob true)

/-- DISARM KEY begins (R21). -/
def beginDisarmKey (o : Order) (s : State) : State := withFob o s (fun s => s.awaitWalk o 0 o.fob true)

/-- FIND KEY begins (R22). -/
def beginFindKey (o : Order) (s : State) : State := withFob o s (fun s => s.awaitWalk o 0 o.fob true)

/-- DECLARE LOST begins (R123). -/
def beginDeclareLost (o : Order) (s : State) : State := withFob o s (fun s => s.awaitWalk o 0 o.fob true)

/-- EXTEND LOAN begins; it ends CLOCK NOT SET while the clock is not set (R137). -/
def beginExtendLoan (o : Order) (s : State) : State :=
  withFob o s fun s =>
    if !s.loans.clockSet then s.writeResult o.cell { code := .clockNotSet } else s.awaitWalk o 0 o.fob true

/-- Whether a due minute is after now and no more than 525,600 minutes ahead (R85, R137). -/
def State.dueAllowed (s : State) (due : Word) : Bool := s.now < due.toNat && due.toNat ≤ s.now + Config.longestLoan

/-- The removal window of a HAND OUT: the cell's, or the parameter for 0, clamped to 5–120 (R85). -/
def State.removalWindowOf (s : State) (o : Order) : Nat :=
  let w := (half o.byte 20).toNat
  clamp 5 120 (if w = 0 then s.params.removalWindow else w)

/-- HAND OUT begins: fob, window, clock, due minute, Due List room (R85). -/
def beginHandOut (o : Order) (s : State) : State :=
  withFob o s fun s =>
    if !s.loans.clockSet then s.writeResult o.cell { code := .clockNotSet }
    else if !s.dueAllowed (word o.byte 16) then s.writeResult o.cell { code := .badDue }
    else if s.dueListFull then s.writeResult o.cell { code := .dueListFull }
    else s.awaitWalk o (s.removalWindowOf o) o.fob true

/-! ## Completion (R12, R14) -/

/-- The detail that reports a lookup: its depth, saturating at 255 (R14). -/
def Walk.detail (w : Walk) : Byte := saturate w.depth 8

/-- A lookup that found no record ends its order NO SUCH FOB (R14). -/
def State.noSuchFob (s : State) (o : Order) (w : Walk) : State :=
  s.writeResult o.cell { code := .noSuchFob, detail := w.detail }

/-- The result of a lookup order on the record found: the depth and the record's index. -/
def Walk.result (w : Walk) (code : Code) (i : RecIx) : Result := { code := code, detail := w.detail, index := ofIx i }

/-- The link that leads to the walk's cursor takes a value: the predecessor's next field, or the chain's head (R5). -/
def State.relink (s : State) (w : Walk) (v : Half) : State :=
  match w.pred with
  | some p => s.modKey p (fun r => { r with next := v })
  | none => s.setHome w.home v

/-- The lowest STRANGER slot whose fob seen is the fob (R18). -/
def State.strangerWith (s : State) (fob : Word) : Option SlotIx :=
  (List.finRange 384).find? (fun k => (s.slot k).state == .stranger && (s.slot k).fobSeen == fob)

/-- The content of an enrolled record (R17, R19), before a stranger slot makes it IN. -/
def Order.newKey (o : Order) : KeyRec :=
  let loan := flag (o.byte 17) 1
  { state := if loan then .out else .awaited, armed := flag (o.byte 17) 0, keyBack := false, forcedRemoval := false,
    keyUnaccounted := false, returnedLate := false, cls := BitVec.ofNat 8 (min (o.byte 16).toNat 15), level := 0,
    announced := 0, next := noIndex, slot := noIndex, fob := o.fob, vehicle := word o.byte 12,
    agreement := if loan then word o.byte 20 else 0, handOut := if loan then word o.byte 24 else 0,
    due := if loan then word o.byte 28 else 0, lateness := 0, closedLoans := 0 }

/-- A record is taken off the spare chain and linked at its chain's tail with its content (R1, R5, R6, R17). -/
def State.linkNew (s : State) (w : Walk) (i : RecIx) (r : KeyRec) : State :=
  let wk := s.walker
  let s := { s with walker := { wk with spareHead := (s.key i).next, inUse := wk.inUse + 1, spare := wk.spare - 1 } }
  (s.relink w (ofIx i)).setKey i r

/-- The slot an enrolled key is found in, its record made IN there, or the loan restored; the result of the order (R18,
R19). -/
def State.enrolled (s : State) (o : Order) (i : RecIx) : State :=
  let ok (detail : Byte) (slot : Half) : Result :=
    { code := .ok, detail := detail, index := ofIx i, data := [(8, le16 slot)] }
  if flag (o.byte 17) 1 then (s.insertDue i (word o.byte 28)).writeResult o.cell (ok 2 noIndex)
  else
    match s.strangerWith o.fob with
    | some k => (s.comeToRest k i).writeResult o.cell (ok 1 (ofIx k))
    | none => s.writeResult o.cell (ok 0 noIndex)

/-- ENROL KEY completes (R17–R19). -/
def completeEnrolKey (o : Order) (w : Walk) (s : State) : State :=
  match w.found with
  | some i => s.writeResult o.cell (w.result .duplicateFob i)
  | none =>
    match (if s.walker.spare = 0 then none else recOf s.walker.spareHead) with
    | none => s.writeResult o.cell { code := .directoryFull }
    | some i =>
      if flag (o.byte 17) 1 ∧ s.dueListFull then s.writeResult o.cell { code := .dueListFull }
      else (s.linkNew w i o.newKey).enrolled o i

/-- A record is unlinked and becomes the head of the spare chain (R1, R2, R5, R6, R20). -/
def State.retire (s : State) (w : Walk) (i : RecIx) : State :=
  let wk := s.walker
  let s := (s.relink w (s.key i).next).setKey i (KeyRec.spare wk.spareHead)
  { s with walker := { wk with spareHead := ofIx i, inUse := wk.inUse - 1, spare := wk.spare + 1 } }

/-- RETIRE KEY completes; the index of a KEY BUSY is a free value (R20, log entry 30). -/
def completeRetireKey (o : Order) (w : Walk) (s : State) : State :=
  match w.found with
  | none => s.noSuchFob o w
  | some i =>
    let st := (s.key i).state
    if st = .awaited ∨ st = .missing ∨ st = .lost then (s.retire w i).writeResult o.cell (w.result .ok i)
    else s.writeResult o.cell { code := .keyBusy, detail := w.detail, index := Config.retireBusyIndex i }

/-- ARM KEY and DISARM KEY complete (R21). -/
def completeArm (armed : Bool) (o : Order) (w : Walk) (s : State) : State :=
  match w.found with
  | none => s.noSuchFob o w
  | some i => (s.modKey i (fun r => { r with armed := armed })).writeResult o.cell (w.result .ok i)

/-- FIND KEY completes with the 32 bytes of the record in cell bytes 8–39 (R22). -/
def completeFindKey (o : Order) (w : Walk) (s : State) : State :=
  match w.found with
  | none => s.noSuchFob o w
  | some i =>
    let copy := (List.range 32).map (fun n => s.byte (keyBase i + n))
    s.writeResult o.cell { w.result .ok i with data := [(8, copy)] }

/-- The refusal of a HAND OUT's lookup, or its acceptance (R86, R87). -/
def State.handOutFound (s : State) (e : Execution) (w : Walk) (i : RecIx) : State :=
  let r := s.key i
  let refuse (code : Code) : State := s.writeResult e.order.cell (w.result code i)
  if r.state ≠ .resting ∧ r.state ≠ .check then refuse .keyBusy
  else if r.state = .check then refuse .notVerified
  else if !r.armed then refuse .notArmed
  else
    match slotOf r.slot with
    | none => refuse .moduleLost
    | some k =>
      if !s.online (moduleOf k) then refuse .moduleLost
      else
        match s.freeCtx with
        | none => refuse .cabinetBusy
        | some c => s.accept e i k c

/-- HAND OUT completes its lookup (R86, R87). -/
def completeHandOut (e : Execution) (w : Walk) (s : State) : State :=
  match w.found with
  | none => s.noSuchFob e.order w
  | some i => s.handOutFound e w i

/-- DECLARE LOST completes (R123). -/
def completeDeclareLost (o : Order) (w : Walk) (s : State) : State :=
  match w.found with
  | none => s.noSuchFob o w
  | some i =>
    match (s.key i).state with
    | .out =>
      let s := s.removeDue i
      (s.modKey i (fun r => { r with state := .lost, level := 0, announced := 0 })).writeResult o.cell (w.result .ok i)
    | .missing => (s.modKey i (fun r => { r with state := .lost })).writeResult o.cell (w.result .ok i)
    | .check =>
      let s := s.dropReference i
      (s.modKey i (fun r => { r with state := .lost, slot := noIndex })).writeResult o.cell (w.result .ok i)
    | _ => s.writeResult o.cell (w.result .keyBusy i)

/-- EXTEND LOAN completes (R137). -/
def completeExtendLoan (o : Order) (w : Walk) (s : State) : State :=
  match w.found with
  | none => s.noSuchFob o w
  | some i =>
    let due := word o.byte 12
    if (s.key i).state ≠ .out then s.writeResult o.cell (w.result .keyBusy i)
    else if !s.dueAllowed due then s.writeResult o.cell (w.result .badDue i)
    else
      let s := s.removeDue i
      let s := s.modKey i (fun r => { r with due := due, level := 0, announced := 0 })
      (s.insertDue i due).writeResult o.cell (w.result .ok i)

end Sys2Proof.Machine
end

