-- ==== Sys2Proof/Machine/Parameters.lean ====
section
/-! DEFINITION. SET PARAMETER (section 11.3), with what a change does at its execution event, and the counters' two orders
(section 10.4). -/

namespace Sys2Proof.Machine

/-! ## The parameter table (R178) -/

/-- The value in force for an id; 0 for an unknown id (R178). -/
def Params.get (p : Params) (id : Nat) : Nat :=
  match id with
  | 1 => p.homeSpan
  | 2 => p.window
  | 3 => p.onThreshold
  | 4 => p.offThreshold
  | 5 => p.confirmCount
  | 6 => p.driftShift
  | 7 => p.seedDelta
  | 8 => p.roundPeriod
  | 9 => p.replyTimeout
  | 10 => p.measureGroups
  | 11 => p.lineDivider
  | 12 => p.removalWindow
  | 13 => p.grace
  | 14 => p.escalation
  | 15 => p.announceFrom
  | 16 => p.lineUrgency
  | _ => 0

/-- ON THRESHOLD; lowered to OFF THRESHOLD or below, it takes OFF THRESHOLD down with it (R56, R178). -/
def Params.putOn (p : Params) (v : Nat) : Params :=
  let t := clamp 8 2000 v
  { p with onThreshold := t, offThreshold := if t ≤ p.offThreshold then t - 1 else p.offThreshold }

/-- GRACE; raised to ESCALATION or above, it takes ESCALATION up with it (R178). -/
def Params.putGrace (p : Params) (v : Nat) : Params :=
  let g := clamp 0 240 v
  { p with grace := g, escalation := if p.escalation ≤ g then g + 1 else p.escalation }

/-- The parameters after a SET PARAMETER with a value its id accepts, clamped to its range (R178). -/
def Params.put (p : Params) (id v : Nat) : Params :=
  match id with
  | 1 => { p with homeSpan := v }
  | 2 => { p with window := clamp 64 4095 v }
  | 3 => p.putOn v
  | 4 => { p with offThreshold := clamp 0 (p.onThreshold - 1) v }
  | 5 => { p with confirmCount := clamp 2 8 v }
  | 6 => { p with driftShift := clamp 1 7 v }
  | 7 => { p with seedDelta := clamp 0 2000 v }
  | 8 => { p with roundPeriod := clamp 100 2000 v }
  | 9 => { p with replyTimeout := clamp 1 20 v }
  | 10 => { p with measureGroups := v }
  | 11 => { p with lineDivider := clamp 3 207 v }
  | 12 => { p with removalWindow := clamp 5 120 v }
  | 13 => p.putGrace v
  | 14 => { p with escalation := clamp (p.grace + 1) 10080 v }
  | 15 => { p with announceFrom := clamp 1 3 v }
  | 16 => { p with lineUrgency := clamp 1 3 v }
  | _ => p

/-- Whether an id takes a value: ids 1 to 16, and for ids 1 and 10 the listed values alone (R178). -/
def parameterAccepted (id v : Nat) : Bool :=
  match id with
  | 1 => v == 256 || v == 512 || v == 1024
  | 10 => v == 1 || v == 2 || v == 4
  | _ => 1 ≤ id && id ≤ 16

/-! ## A change of WINDOW (R58, R59) -/

/-- Every learned baseline of a slot that is not WITHDRAWN is rescaled (R58). -/
def State.rescaleBaselines (s : State) (wNew wOld : Nat) : State :=
  (List.finRange 384).foldl (fun s k =>
    let r := s.slot k
    if r.learned && r.state != .withdrawn then s.setSlot k { r with baseline := rescaled r.baseline wNew wOld } else s) s

/-- A COUNTS reply of a survey is discarded: back to the MEASURE, or, at the third discard, on to the fob reads without
counts; the fob results held are kept (R59, R174). -/
def Survey.discard (v : Survey) : Survey :=
  if v.discards + 1 < 3 then { v with discards := v.discards + 1, counts := .awaited, stage := .measure }
  else { v with discards := v.discards + 1, counts := .givenUp, stage := .fobs }

/-- A survey's COUNTS reply is discarded with one STALE COUNTS event (R59, R174). -/
def State.surveyStale (s : State) (v : Survey) : State :=
  { s with mlc := { s.mlc with survey := some v.discard } }.tally .staleCounts (some v.module) none

/-- A survey that holds its counts when WINDOW changes discards them. R59 sends it back to step 1 of R174; R174 counts a
reply discarded under R59 among its three, and the model counts the held reply too (log entry 17). -/
def State.discardSurveyCounts (s : State) : State :=
  match s.mlc.survey with
  | none => s
  | some v =>
    match v.counts with
    | .held _ => s.surveyStale v
    | _ => s

/-- A parameter's new value is in force: WINDOW rescales the baselines and discards a survey's counts when it changes,
LINE URGENCY evaluates the ALERT line (R58, R59, R150). -/
def State.putParameter (s : State) (id v : Nat) : State :=
  let old := s.params.window
  let s := { s with params := s.params.put id v }
  let s := if s.params.window ≠ old then (s.rescaleBaselines s.params.window old).discardSurveyCounts else s
  if id = 16 then s.evalAlert else s

/-! ## SET PARAMETER -/

/-- The id in bytes 8–9 of a SET PARAMETER (section 11.3). -/
def Order.parameterId (o : Order) : Nat := (half o.byte 8).toNat

/-- The value in bytes 12–15 of a SET PARAMETER (section 11.3). -/
def Order.parameterValue (o : Order) : Nat := (word o.byte 12).toNat

/-- The result of a SET PARAMETER: detail 0, index 0xFFFF, and the value in force in bytes 16–19 (R178). -/
def State.parameterResult (s : State) (o : Order) (code : Code) : State :=
  s.writeResult o.cell { code := code, data := [(16, le32 (BitVec.ofNat 32 (s.params.get o.parameterId)))] }

/-- SET PARAMETER: refused, a walk for HOME SPAN, or in force at once (R16, R178). -/
def beginSetParameter (o : Order) (s : State) : State :=
  if !parameterAccepted o.parameterId o.parameterValue then s.parameterResult o .badParameter
  else if o.parameterId = 1 then s.awaitWalk o 0 0 false
  else (s.putParameter o.parameterId o.parameterValue).parameterResult o .ok

/-- The HOME SPAN walk completes (R16). For the span already in force while records are in use, R16 ends DIRECTORY NOT
EMPTY and R178 ends OK for a value equal to the one in force. DESIGN CHOICE (log entry 36), unsafe: R16 is followed. -/
def completeHomeSpan (o : Order) (s : State) : State :=
  if s.walker.inUse ≠ 0 then s.parameterResult o .directoryNotEmpty
  else (s.putParameter 1 o.parameterValue).parameterResult o .ok

/-! ## The Tally Unit's orders -/

/-- SET COUNTER (R170). -/
def beginSetCounter (o : Order) (s : State) : State :=
  let mode := (o.byte 9).toNat
  let kinds := half o.byte 10
  if h : (o.byte 8).toNat < 8 then
    if 1 < mode ∨ (mode = 1 ∧ 4 < kinds.toNat) then s.writeResult o.cell { code := .badParameter }
    else
      let counter : Counter :=
        { value := 0, accumulate := mode == 1, kinds := kinds, moduleMask := half o.byte 12, classMask := half o.byte 14,
          overflow := false }
      { s with counters := setAt s.counters ⟨(o.byte 8).toNat, h⟩ counter }.writeResult o.cell
        { code := .ok, detail := o.byte 8 }
  else s.writeResult o.cell { code := .badParameter }

/-- The six bytes of a counter's value, least significant first (section 10.4). -/
def Counter.bytes (c : Counter) : List Byte := (List.range 6).map (fun n => c.value.extractLsb' (8 * n) 8)

/-- The byte of the eight overflow flags, bit i for counter i (section 10.4). -/
def State.overflowByte (s : State) : Byte :=
  flagByte s.counters[0].overflow s.counters[1].overflow s.counters[2].overflow s.counters[3].overflow
    s.counters[4].overflow s.counters[5].overflow s.counters[6].overflow s.counters[7].overflow

/-- READ COUNTERS (R171). -/
def beginReadCounters (o : Order) (s : State) : State :=
  let copy := s.counters.toList.flatMap Counter.bytes ++ [s.overflowByte]
  let s' :=
    if flag (o.byte 8) 0 then { s with counters := s.counters.map (fun c => { c with value := 0, overflow := false }) } else s
  s'.writeResult o.cell { code := .ok, data := [(8, copy)] }

end Sys2Proof.Machine
end

