-- ==== Sys2Proof/Machine/Orders.lean ====
section
/-! DEFINITION. The Order Unit (chapter 9): scans of the board and the take, the intake queue, the begin of each order, and
the completion of walks for both requesters. -/

namespace Sys2Proof.Machine

/-! ## Running orders (R162, R164) -/

/-- An order begins (R162); a kind outside 1 to 17 ends BAD KIND (R164). -/
def State.beginOrder (s : State) (o : Order) : State :=
  match o.kind with
  | 1 => beginEnrolKey o s
  | 2 => beginRetireKey o s
  | 3 => beginArmKey o s
  | 4 => beginDisarmKey o s
  | 5 => beginFindKey o s
  | 6 => beginPinSlot o s
  | 7 => beginUnpinSlot o s
  | 8 => beginWithdrawSlot o s
  | 9 => beginRestoreSlot o s
  | 10 => beginHandOut o s
  | 11 => beginCancelHandOut o s
  | 12 => beginDeclareLost o s
  | 13 => beginExtendLoan o s
  | 14 => beginSetClock o s
  | 15 => beginSetCounter o s
  | 16 => beginReadCounters o s
  | 17 => beginSetParameter o s
  | _ => s.writeResult o.cell { code := .badKind }

/-- The idle Order Unit begins the orders of its intake queue, head first, until one waits for a walk (R162). -/
def State.runOrders (s : State) : List Order → State
  | [] => { s with board := { s.board with intake := [] } }
  | o :: os =>
    if s.board.execution.isSome then { s with board := { s.board with intake := o :: os } }
    else ({ s with board := { s.board with intake := os } }.beginOrder o).runOrders os

/-- What the order in execution does in its walk's completion event. -/
def completeOrder (e : Execution) (w : Walk) (s : State) : State :=
  match e.order.kind with
  | 1 => completeEnrolKey e.order w s
  | 2 => completeRetireKey e.order w s
  | 3 => completeArm true e.order w s
  | 4 => completeArm false e.order w s
  | 5 => completeFindKey e.order w s
  | 10 => completeHandOut e w s
  | 12 => completeDeclareLost e.order w s
  | 13 => completeExtendLoan e.order w s
  | 17 => completeHomeSpan e.order s
  | _ => s

/-! ## Walk completion (R12, R13) -/

/-- The requester applies its walk's result; the Order Unit then goes on with its queue (R12, R162). -/
def State.applyWalk (s : State) (w : Walk) : State :=
  match w.asker with
  | .slot k => s.lookupResult k w.fob w.found
  | .order =>
    match s.board.execution with
    | none => s
    | some e => (completeOrder e w { s with board := { s.board with execution := none } }).runOrders s.board.intake

/-- A walk completes: its result is applied, and the Walker grants its next request (R12, R13). The grants come last, so a
STRANGER FOB raised by a lookup that is answered NOT FOUND at its grant is counted after a READ COUNTERS or SET COUNTER
that began in this event: the manual orders neither, and the model chooses (log entry 33). -/
def State.completeWalk (s : State) (w : Walk) : State :=
  let s := s.applyWalk w
  { s with walker := { s.walker with walk := none } }.grantNext s.walker.slotRequests

/-- WALK_COMPLETION: due when the walk has met its match or the end of its chain (R12, R14). Orders of the queue that
begin in this event run before its grants are made and its alerts taken, which is the model's choice (log entry 33). -/
def execWalkCompletion (s : State) : Host.Outcome State Fault Refusal :=
  match s.walker.walk with
  | none => done s
  | some w => if w.ended then done (s.completeWalk w).finish else done s

/-! ## Scans and the take (R160, R161) -/

/-- A scan starts after the last cell taken (R160). -/
def State.startScan (s : State) : State :=
  { s with board := { s.board with scan := some { start := s.board.lastTaken + 1, examined := 0 } } }

/-- A scan is asked for: ignored while READY is 0, started when none runs, owed otherwise (R160). -/
def State.askScan (s : State) : State :=
  if !s.port.ready then s
  else if s.board.scan.isSome then { s with board := { s.board with scanOwed := true } }
  else s.startScan

/-- The cell a scan examines next. -/
def BoardScan.cell (b : BoardScan) : CellIx := ⟨(b.start.val + b.examined) % 32, by omega⟩

/-- A POSTED cell is taken: bytes 1 to 63 copied, TAKEN, appended to the intake queue, last taken (R161). -/
def State.take (s : State) (c : CellIx) : State :=
  let o : Order := { cell := c, copy := (List.range 63).map (fun n => s.cellByte c (n + 1)) }
  let s := s.writeCell c 0 [cellTaken]
  { s with board := { s.board with lastTaken := c, intake := s.board.intake ++ [o] } }

/-- The scan moves past a cell; it ends after the 32nd, and an owed scan starts at its end (R160). -/
def State.passCell (s : State) (b : BoardScan) : State :=
  if b.examined + 1 < 32 then
    { s with board := { s.board with scan := some { b with examined := b.examined + 1 } } }
  else if s.board.scanOwed then { s with board := { s.board with scanOwed := false } }.startScan
  else { s with board := { s.board with scan := none } }

/-- The scan examines one cell, and the idle Order Unit begins what it took (R161, R162). -/
def State.examine (s : State) (b : BoardScan) : State :=
  let s := if s.cellByte b.cell 0 = cellPosted then s.take b.cell else s
  let s := s.passCell b
  s.runOrders s.board.intake

/-- SCAN_EXAMINATION: due while a scan runs (R160, R161). -/
def execScanExamination (s : State) : Host.Outcome State Fault Refusal :=
  match s.board.scan with
  | none => done s
  | some b => done (s.examine b).finish

/-- SCAN_TIMER_EXPIRY (R160). -/
def execScanTimerExpiry (s : State) : Host.Outcome State Fault Refusal := done s.askScan

/-! ## The orders as commands

Each is the examination that takes its cell and begins an order of its kind at once: the scan stands at the cell, the cell
is POSTED with that kind, and the Order Unit is idle with nothing queued. Otherwise the event is not due and nothing
happens (log entries 3 and 4). -/

/-- Whether the next examination takes cell `c` and begins an order whose kind byte is `kind`. -/
def State.orderDue (s : State) (c : CellIx) (kind : Nat) : Bool :=
  s.board.scan.any (fun b => b.cell == c) && s.cellByte c 0 == cellPosted && (s.cellByte c 1).toNat == kind &&
    s.board.execution.isNone && s.board.intake.isEmpty

/-- The event that takes and begins an order. -/
def State.takeAndBegin (s : State) (due : Bool) : State :=
  match s.board.scan with
  | some b => if due then (s.examine b).finish else s
  | none => s

/-- BAD_KIND (R164): a kind byte that is not one of 1 to 17. -/
def execBadKind (c : CellIx) (s : State) : Host.Outcome State Fault Refusal :=
  let kind := (s.cellByte c 1).toNat
  done (s.takeAndBegin (s.orderDue c kind && (kind == 0 || 17 < kind)))

/-- ENROL_KEY (R17). -/
def execEnrolKey (c : CellIx) (s : State) : Host.Outcome State Fault Refusal := done (s.takeAndBegin (s.orderDue c 1))

/-- RETIRE_KEY (R20). -/
def execRetireKey (c : CellIx) (s : State) : Host.Outcome State Fault Refusal := done (s.takeAndBegin (s.orderDue c 2))

/-- ARM_KEY (R21). -/
def execArmKey (c : CellIx) (s : State) : Host.Outcome State Fault Refusal := done (s.takeAndBegin (s.orderDue c 3))

/-- DISARM_KEY (R21). -/
def execDisarmKey (c : CellIx) (s : State) : Host.Outcome State Fault Refusal := done (s.takeAndBegin (s.orderDue c 4))

/-- FIND_KEY (R22). -/
def execFindKey (c : CellIx) (s : State) : Host.Outcome State Fault Refusal := done (s.takeAndBegin (s.orderDue c 5))

/-- PIN_SLOT (R32). -/
def execPinSlot (c : CellIx) (s : State) : Host.Outcome State Fault Refusal := done (s.takeAndBegin (s.orderDue c 6))

/-- UNPIN_SLOT (R33). -/
def execUnpinSlot (c : CellIx) (s : State) : Host.Outcome State Fault Refusal := done (s.takeAndBegin (s.orderDue c 7))

/-- WITHDRAW_SLOT (R35). -/
def execWithdrawSlot (c : CellIx) (s : State) : Host.Outcome State Fault Refusal := done (s.takeAndBegin (s.orderDue c 8))

/-- RESTORE_SLOT (R37). -/
def execRestoreSlot (c : CellIx) (s : State) : Host.Outcome State Fault Refusal := done (s.takeAndBegin (s.orderDue c 9))

/-- HAND_OUT (R85). -/
def execHandOut (c : CellIx) (s : State) : Host.Outcome State Fault Refusal := done (s.takeAndBegin (s.orderDue c 10))

/-- CANCEL_HAND_OUT (R100). -/
def execCancelHandOut (c : CellIx) (s : State) : Host.Outcome State Fault Refusal := done (s.takeAndBegin (s.orderDue c 11))

/-- DECLARE_LOST (R123). -/
def execDeclareLost (c : CellIx) (s : State) : Host.Outcome State Fault Refusal := done (s.takeAndBegin (s.orderDue c 12))

/-- EXTEND_LOAN (R137). -/
def execExtendLoan (c : CellIx) (s : State) : Host.Outcome State Fault Refusal := done (s.takeAndBegin (s.orderDue c 13))

/-- SET_CLOCK (R126). -/
def execSetClock (c : CellIx) (s : State) : Host.Outcome State Fault Refusal := done (s.takeAndBegin (s.orderDue c 14))

/-- SET_COUNTER (R170). -/
def execSetCounter (c : CellIx) (s : State) : Host.Outcome State Fault Refusal := done (s.takeAndBegin (s.orderDue c 15))

/-- READ_COUNTERS (R171). -/
def execReadCounters (c : CellIx) (s : State) : Host.Outcome State Fault Refusal := done (s.takeAndBegin (s.orderDue c 16))

/-- SET_PARAMETER (R178). -/
def execSetParameter (c : CellIx) (s : State) : Host.Outcome State Fault Refusal := done (s.takeAndBegin (s.orderDue c 17))

end Sys2Proof.Machine
end

