-- ==== Sys2Proof/Machine/Line.lean ====
section
/-! DEFINITION. The Module Line Controller (chapter 4) with the survey (section 11.1): rounds, module loss, probes, the
choice of line work, frames sent, replies, retries and time-outs, and the events at which READY becomes 1. -/

namespace Sys2Proof.Machine

/-! ## Rounds (R75, R76, R78) -/

/-- Writes the current round. -/
def State.setRound (s : State) (r : Option Round) : State := { s with mlc := { s.mlc with round := r } }

/-- The read list of a group, fixed when the round reaches it: its ONLINE members that are not surveying, ascending
(R76). -/
def State.groupList (s : State) (groups group : Nat) : List ModIx :=
  (List.finRange 16).filter (fun m => m.val % groups == group && s.online m && !(s.modEntry m).surveying)

/-- The round moves to the first of its last `n` groups that has modules to read, or on to its probe list (R76). -/
def State.reach (s : State) (r : Round) : Nat → Round
  | 0 => { r with stage := .probing, readList := [] }
  | n + 1 =>
    match s.groupList r.groups (r.groups - (n + 1)) with
    | [] => s.reach r n
    | l => { r with group := r.groups - (n + 1), stage := .measure, readList := l }

/-- The round is over: the Release Unit gets its notice (R76, R98). -/
def State.closeRound (s : State) : State := (s.setRound none).roundEndNotice

/-- At a round's start an UNKNOWN or LOST module adds 1 to its rounds since probe, up to 8 (R75). -/
def ModEntry.countRound (e : ModEntry) : ModEntry :=
  if e.state = .unknown ∨ e.state = .lost then { e with rounds := min (e.rounds + 1) 8 } else e

/-- A round starts: the timer restarts, rounds since probe rise, the probe list holds those that reach 8, and the first
group is reached; a round with nothing to do ends in the same event (R75, R76, R78). -/
def State.startRound (s : State) : State :=
  let s := (List.finRange 16).foldl (fun s m => s.modModule m ModEntry.countRound) s
  let probes := (List.finRange 16).filter (fun m =>
    ((s.modEntry m).state = .unknown ∨ (s.modEntry m).state = .lost) ∧ (s.modEntry m).rounds = 8)
  let s := { s with mlc := { s.mlc with roundTimer := .running s.params.roundPeriod } }
  let g := s.params.measureGroups
  let r := s.reach { groups := g, group := 0, stage := .measure, readList := [], probeList := probes, waitUs := 0 } g
  if r.stage = .probing ∧ r.probeList = [] then s.closeRound else s.setRound (some r)

/-- The round ends; the next starts at once when its timer has already expired (R78). -/
def State.endRound (s : State) : State :=
  let s := s.closeRound
  if s.mlc.roundTimer = .expired then s.startRound else s

/-- The round goes on when a list of it has been worked off: to the next group, to its probe list, or to its end (R76).
R76 skips a group whose read list is empty when fixed, and does not say what becomes of one whose list losses empty
before its MEASURE. DESIGN CHOICE (log entry 40), unsafe: that group is skipped too, with no MEASURE. -/
def State.roundCheck (s : State) : State :=
  match s.mlc.round with
  | none => s
  | some r =>
    match r.stage with
    | .sending => s
    | .waiting => s
    | .probing => if r.probeList = [] then s.endRound else s
    | _ =>
      if r.readList ≠ [] then s
      else
        let r := s.reach r (r.groups - (r.group + 1))
        if r.stage = .probing ∧ r.probeList = [] then s.endRound else s.setRound (some r)

/-! ## READY (R173, R175, R177) -/

/-- Whether any module's survey is still to end. -/
def State.surveying (s : State) : Bool := (List.finRange 16).any (fun m => (s.modEntry m).surveying)

/-- The start-up sequence ends when its conditions hold: READY becomes 1 and a scan is asked for; after power-on SURVEY
becomes 0 and rounds begin (R175, R177). -/
def State.checkReady (s : State) : State :=
  match s.phase with
  | .powerOn =>
    if s.mlc.identNext = 16 ∧ !s.surveying then
      ({ s with phase := .running, port := { s.port with survey := false, ready := true } }.startRound).askScan
    else s
  | .softReset =>
    if s.mlc.identNext = 16 ∧ !s.surveying ∧ s.loans.rebuild = none then
      { s with phase := .running, port := { s.port with ready := true } }.askScan
    else s
  | _ => s

/-- The 16th probe of the identification has ended: SURVEY shows whether a survey has begun; after a soft reset rounds
begin (R78, R173, R177). -/
def State.identificationEnd (s : State) : State :=
  match s.phase with
  | .powerOn => { s with port := { s.port with survey := s.surveying } }
  | .softReset => s.startRound
  | _ => s

/-! ## Module loss (R74) -/

/-- The queue and the pending list without a module's requests, refilled from the pending list (R74). -/
def Mlc.purge (c : Mlc) (m : ModIx) : Mlc :=
  let q := c.queue.filter (fun r => moduleOf r.slot ≠ m)
  let w := c.waiting.filter (fun r => moduleOf r.slot ≠ m)
  let room := Config.lineQueueSize - q.length
  { c with queue := q ++ w.take room, waiting := w.drop room }

/-- A module leaves the round's read list. -/
def Mlc.read (c : Mlc) (m : ModIx) : Mlc :=
  { c with round := c.round.map (fun r => { r with readList := r.readList.erase m }) }

/-- A lost module leaves the round's read list, and its survey ends unseeded (R74, R174). -/
def Mlc.dropWork (c : Mlc) (m : ModIx) : Mlc :=
  { c.read m with survey := c.survey.filter (fun v => v.module ≠ m) }

/-- A module leaves the round's probe list. -/
def Mlc.probed (c : Mlc) (m : ModIx) : Mlc :=
  { c with round := c.round.map (fun r => { r with probeList := r.probeList.erase m }) }

/-- The MLC declares a module LOST; the Slot Supervisor changes its slots and the Release Unit ends its contexts in the
same event (R38, R74, R102). -/
def State.moduleLost (s : State) (m : ModIx) : State :=
  let s := s.modModule m (fun e =>
    { e with state := .lost, lostMark := true, rounds := 0, surveying := false, expected := none })
  let s := (s.offer (.moduleLost m)).tally .moduleLost (some m) none
  let s := { s with mlc := (s.mlc.purge m).dropWork m }
  let s := (List.finRange 8).foldl (fun s c => s.lossCtx m c) s
  (slotsOf m).foldl State.lossSlot s

/-! ## Probes (R73, R30, R39, R42) -/

/-- The LAMP requests of R30: one for each slot of the module whose lamp field is not OFF. -/
def State.lampRequests (s : State) (m : ModIx) : State :=
  (slotsOf m).foldl (fun s k => if (s.slot k).lamp ≠ .off then s.requestLamp k else s) s

/-- A slot of a module that IDENTIFY has made ONLINE: its latch is closed; at the rejoin of a LOST module its history is
cleared (R39, R42, R61). -/
def State.rejoinSlot (s : State) (clear : Bool) (k : SlotIx) : State :=
  let s := s.updateSlot k (fun r => { r with latch := .closed, history := if clear then 0 else r.history })
  if clear then s.modChip k (fun c => { c with runReported := false }) else s

/-- After a soft reset an IDENTIFYING slot asks for its fob again (R42). -/
def State.rereadSlot (s : State) (k : SlotIx) : State :=
  if (s.slot k).state = .identifying then
    ((s.modSlot k (fun r => { r with attempts := 0 })).setStep k .reading).offerRead k
  else s

/-- A module answers a probe with 24 slots (R73). -/
def State.moduleOnline (s : State) (m : ModIx) : State :=
  let e := s.modEntry m
  let lost := e.state == .lost
  let s := s.modModule m (fun e =>
    { e with state := .online, backMark := e.backMark || lost, surveying := e.surveying || !e.surveyed })
  let s := if lost then s.offer (.moduleBack m) else s
  let s := (slotsOf m).foldl (fun s k => s.rejoinSlot (lost && e.surveyed) k) s
  let s := if e.surveyed then s.lampRequests m else s
  let s := if e.surveyed && !lost then (slotsOf m).foldl State.rereadSlot s else s
  s.grantWaiting m

/-- The reply to a probe (R73). -/
def State.probeReply (s : State) (m : ModIx) (slots : Byte) : State :=
  if slots = 24 then s.moduleOnline m else s.modModule m (fun e => { e with state := .refused })

/-- A probe that got no reply: an UNKNOWN module that was surveyed is LOST, any other stays as it is (R73). -/
def State.probeFailed (s : State) (m : ModIx) : State :=
  if (s.modEntry m).state = .unknown ∧ (s.modEntry m).surveyed then s.moduleLost m else s

/-- The probe has ended: the identification goes on to its next address, or the round goes on (R76, R173). -/
def State.probeEnd (s : State) (m : ModIx) : State :=
  let s :=
    if s.mlc.identNext < 16 then
      let s := { s with mlc := { s.mlc with identNext := s.mlc.identNext + 1 } }
      if s.mlc.identNext = 16 then s.identificationEnd else s
    else
      ({ s with mlc := s.mlc.probed m } : State).roundCheck
  s.checkReady

/-! ## The survey (R59, R60, R174) -/

/-- Writes the survey in progress. -/
def State.setSurvey (s : State) (v : Option Survey) : State := { s with mlc := { s.mlc with survey := v } }

/-- The next position a survey reads: the first at or after its place whose slot is not WITHDRAWN (R174). -/
def State.nextRead (s : State) (v : Survey) : Option PosIx :=
  (List.finRange 24).find? (fun p => v.nextPos ≤ p.val ∧ (s.slot (slotAt v.module p)).state ≠ .withdrawn)

/-- The survey count of a position; 0 when the survey gave its counts up (R174). -/
def Survey.count (v : Survey) (p : PosIx) : Half :=
  match v.counts with
  | .held l => l.getD p.val 0
  | _ => 0

/-- What the seeding event does to one slot: the Engine's seeding and the Slot Supervisor's change; a WITHDRAWN slot
takes the last raw count alone (R60, R174). -/
def State.seedPosition (s : State) (v : Survey) (p : PosIx) : State :=
  let k := slotAt v.module p
  let c := v.count p
  let result := (v.fobs.find? (fun f => f.pos == p)).map SurveyFob.fob
  if (s.slot k).state = .withdrawn then s.modSlot k (fun r => { r with raw := c })
  else
    let s := s.seedSlot k c result
    match (if invalidCount c then none else result.join) with
    | some f => (s.modSlot k (fun r => { r with surveyFound := true })).becomeStranger k .unknownFob f none
    | none => s.emptySlot k

/-- The seeding event of a survey (R59, R174). -/
def State.seed (s : State) (v : Survey) : State :=
  let s := (List.finRange 24).foldl (fun s p => s.seedPosition v p) s
  let s := s.modModule v.module (fun e => { e with surveyed := true, surveying := false })
  ((s.setSurvey none).lampRequests v.module).checkReady

/-- The survey seeds once it holds its counts and every read result (R59). -/
def State.trySeed (s : State) : State :=
  match s.mlc.survey with
  | none => s
  | some v => if v.stage = .fobs ∧ s.nextRead v = none then s.seed v else s

/-- A COUNTS reply reaches the survey (R59, R174). -/
def State.surveyCounts (s : State) (v : Survey) (data : List Byte) : State :=
  let s :=
    match (s.modEntry v.module).expected with
    | some x =>
      if x.seq = data.getD 0 0 ∧ x.window = s.params.window then
        s.setSurvey (some { v with counts := .held (countsOf data), stage := .fobs })
      else s.surveyStale v
    | none => s.surveyStale v
  s.trySeed

/-! ## Counts of a round (R77) -/

/-- A COUNTS reply of a round: discarded on a sequence mismatch, else handed to the Presence Engine (R77). -/
def State.roundCounts (s : State) (m : ModIx) (data : List Byte) : State :=
  match (s.modEntry m).expected with
  | some x =>
    if x.seq = data.getD 0 0 then s.handCounts m (countsOf data) x.window else s.tally .staleCounts (some m) none
  | none => s.tally .staleCounts (some m) none

/-- A module of the read list has been read: the round goes on (R76). -/
def State.readDone (s : State) (m : ModIx) : State :=
  ({ s with mlc := s.mlc.read m } : State).roundCheck

/-! ## Transactions (R69, R71, R81, R82) -/

/-- Writes the transaction in progress. -/
def State.setTxn (s : State) (t : Option Transaction) : State := { s with mlc := { s.mlc with transaction := t } }

/-- The reply time in ms: REPLY TIMEOUT, 30 ms more for READ FOB (R69). -/
def State.replyTime (s : State) (w : Work) : Nat := s.params.replyTimeout + if w.readsFob then 30 else 0

/-- An attempt begins: MDIR drives, the frame is on the line, and the line's rate and the reply time are those in force
(R63, R64, R69). -/
def State.beginAttempt (s : State) (w : Work) (frame : List Byte) (attempt : Nat) : State :=
  let t : Transaction :=
    { work := w, frame := frame, attempt := attempt, phase := .sending, received := [], divider := s.params.lineDivider,
      replyMs := s.replyTime w }
  { s with mlc := { s.mlc with transaction := some t, mdirSend := true } }

/-- A transaction begins with its first attempt (R71). -/
def State.beginTxn (s : State) (w : Work) : State := s.beginAttempt w (s.frameFor w) 1

/-- A MEASURE begins: the next sequence number, expected with the WINDOW in force of every address the frame names
(R77). -/
def State.beginMeasure (s : State) (nibble mask : Nat) (w : Work) : State :=
  let seq := s.mlc.seq + 1
  let s := { s with mlc := { s.mlc with seq := seq } }
  let s := (List.finRange 16).foldl (fun s m =>
    if named nibble mask m then
      s.modModule m (fun e => { e with expected := some { seq := seq, window := s.params.window } })
    else s) s
  s.beginTxn w

/-- A probe begins; the module's rounds since probe return to 0 (R75). -/
def State.beginProbe (s : State) (m : ModIx) : State := (s.modModule m (fun e => { e with rounds := 0 })).beginTxn (.probe m)

/-- The MLC takes the head of the queue, and the oldest pending request joins the tail (R80). -/
def State.takeCommand (s : State) (r : LineRequest) (rest : List LineRequest) : State :=
  { s with mlc := { s.mlc with queue := rest ++ s.mlc.waiting.take 1, waiting := s.mlc.waiting.drop 1 } }.beginTxn (.command r)

/-- The survey being worked: the one begun, or that of the lowest surveying address (R174). -/
def State.currentSurvey (s : State) : Option Survey :=
  match s.mlc.survey with
  | some v => some v
  | none =>
    ((List.finRange 16).find? (fun m => (s.modEntry m).surveying)).map (fun m =>
      { module := m, stage := .measure, counts := .awaited, discards := 0, nextPos := 0, fobs := [], waitUs := 0 })

/-- The next step of a survey, if it has one now (R174). -/
def State.surveyStep (s : State) (v : Survey) : Option State :=
  let wait := s.params.window + 1000
  match v.stage with
  | .measure =>
    some ((s.setSurvey (some { v with stage := .sending, waitUs := wait })).beginMeasure v.module.val 15
      (.surveyMeasure v.module))
  | .read => some ((s.setSurvey (some { v with stage := .reading })).beginTxn (.surveyRead v.module))
  | .fobs =>
    match s.nextRead v with
    | some p => some ((s.setSurvey (some { v with nextPos := p.val + 1 })).beginTxn (.surveyFob v.module p))
    | none => some (s.seed v)
  | _ => none

/-- The next step of the current round, if it has one now (R76). -/
def State.roundStep (s : State) : State :=
  match s.mlc.round with
  | none => s
  | some r =>
    match r.stage with
    | .measure =>
      (s.setRound (some { r with stage := .sending, waitUs := s.params.window + 1000 })).beginMeasure r.group (r.groups - 1)
        (.roundMeasure r.group (r.groups - 1))
    | .reading =>
      match r.readList with
      | m :: _ => s.beginTxn (.roundRead m)
      | [] => s
    | .probing =>
      match r.probeList with
      | m :: _ => s.beginProbe m
      | [] => s
    | _ => s

/-- The choice of line work: during the identification its next probe alone, otherwise the queue, a survey, the round
(R81, R173). -/
def State.startWork (s : State) : State :=
  if h : s.mlc.identNext < 16 then s.beginProbe ⟨s.mlc.identNext, h⟩
  else
    match s.mlc.queue with
    | r :: rest => s.takeCommand r rest
    | [] =>
      match s.currentSurvey.bind s.surveyStep with
      | some s' => s'
      | none => s.roundStep

/-- The slot whose re-issued close a piece of line work is (R98, R99). -/
def State.reissueOf (s : State) : Work → Option SlotIx
  | .command (.latch k .close) => if (s.chip k).reissued then some k else none
  | _ => none

/-- A transaction of a module fails and the module is LOST; a latch whose re-issued close failed is JAMMED again (R71,
R74, R99, log entry 32). -/
def State.lostBy (s : State) (w : Work) (m : ModIx) : State :=
  match s.reissueOf w with
  | some k => (s.moduleLost m).updateSlot k (fun r => { r with latch := .jammed })
  | none => s.moduleLost m

/-- The third attempt has failed, or a probe's only one: the transaction fails (R71, R73, R74). -/
def State.txnFailed (s : State) (w : Work) : State :=
  match w with
  | .probe m => (s.probeFailed m).probeEnd m
  | _ =>
    match w.module with
    | some m => ((s.lostBy w m).roundCheck).checkReady
    | none => s

/-- An attempt fails: a retry falls due, or the transaction fails (R71, R73). -/
def State.attemptFailed (s : State) (t : Transaction) : State :=
  let once := match t.work with
    | .probe _ => true
    | _ => false
  if once || 3 ≤ t.attempt then (s.setTxn none).txnFailed t.work
  else s.setTxn (some { t with phase := .retryDue, received := [] })

/-- A survey's READ FOB result is held (R174). -/
def State.surveyFobRead (s : State) (p : PosIx) (fob : Option Word) : State :=
  match s.mlc.survey with
  | none => s
  | some v => (s.setSurvey (some { v with fobs := v.fobs ++ [{ pos := p, fob := fob }] })).trySeed

/-- A successful reply is handed to the block that asked for it (R82). -/
def State.handOver (s : State) (w : Work) (data : List Byte) : State :=
  match w with
  | .command (.latch k a) => s.latchReplied k a (sensedOf data)
  | .command (.readFob k) => s.fobRead k (fobOf data)
  | .command (.lamp _) => s
  | .roundRead m => (s.roundCounts m data).readDone m
  | .probe m => (s.probeReply m (data.getD 0 0)).probeEnd m
  | .surveyRead _ =>
    match s.mlc.survey with
    | some v => s.surveyCounts v data
    | none => s
  | .surveyFob _ p => s.surveyFobRead p (fobOf data)
  | .roundMeasure _ _ => s
  | .surveyMeasure _ => s

/-- Characters arrive on MRX: ignored while no reply is expected, otherwise added to those received and judged (R63,
R69, R70, R82). R83 has a reply to the transaction that a soft reset abandoned ignored, and does not say how it is told
from the reply to a later transaction. DESIGN CHOICE (log entry 34), unsafe: such a reply is ignored while no attempt
awaits one, and is judged as that attempt's own while one does: it can fail or complete a re-identification probe. -/
def State.receive (s : State) (chars : List RxChar) : State :=
  match s.mlc.transaction with
  | none => s
  | some t =>
    if t.phase ≠ .awaiting then s
    else
      match t.work.awaited with
      | none => s
      | some w =>
        let received := t.received ++ chars
        match judge w received with
        | .incomplete => s.setTxn (some { t with received := received })
        | .failed => (s.attemptFailed t).finish
        | .good data => ((s.setTxn none).handOver t.work data).finish

/-! ## Commands -/

/-- LINE_WORK_START: due while no transaction is in progress (R81). -/
def execLineWorkStart (s : State) : Host.Outcome State Fault Refusal :=
  if s.mlc.transaction.isSome then done s else done s.startWork.finish

/-- The end of a MEASURE frame: the transaction is over, and its wait begins (R76, R174). -/
def State.measureSent (s : State) : State :=
  { s with
    mlc :=
      { s.mlc with
        transaction := none
        mdirSend := false
        round := s.mlc.round.map (fun r => if r.stage = .sending then { r with stage := .waiting } else r) } }

/-- The end of a survey's MEASURE frame (R174). -/
def State.surveyMeasureSent (s : State) : State :=
  { s with
    mlc :=
      { s.mlc with
        transaction := none
        mdirSend := false
        survey := s.mlc.survey.map (fun v => if v.stage = .sending then { v with stage := .waiting } else v) } }

/-- REQUEST_FRAME_SENT: due while a frame is on the line (R63, R69, R76). -/
def execRequestFrameSent (s : State) : Host.Outcome State Fault Refusal :=
  match s.mlc.transaction with
  | none => done s
  | some t =>
    if t.phase ≠ .sending then done s
    else
      match t.work with
      | .roundMeasure _ _ => done s.measureSent
      | .surveyMeasure _ => done s.surveyMeasureSent
      | _ => done { s with mlc := { s.mlc with transaction := some { t with phase := .awaiting }, mdirSend := false } }

/-- WAIT_TIMER_EXPIRY: the reads of the current group, or the read of the survey, may begin (R76, R174). -/
def execWaitTimerExpiry (timer : WaitTimer) (s : State) : Host.Outcome State Fault Refusal :=
  match timer with
  | .group =>
    match s.mlc.round with
    | none => done s
    | some r =>
      if r.stage = .waiting then done ((s.setRound (some { r with stage := .reading })).roundCheck).finish else done s
  | .survey =>
    match s.mlc.survey with
    | none => done s
    | some v => if v.stage = .waiting then done (s.setSurvey (some { v with stage := .read })) else done s

/-- REPLY_TIMER_EXPIRY: the attempt fails by timeout (R69). -/
def execReplyTimerExpiry (s : State) : Host.Outcome State Fault Refusal :=
  match s.mlc.transaction with
  | none => done s
  | some t => if t.phase = .awaiting then done (s.attemptFailed t).finish else done s

/-- COUNTS_REPLY: the characters of a READ COUNTS reply arrive (R77, R82). -/
def execCountsReply (chars : List RxChar) (s : State) : Host.Outcome State Fault Refusal := done (s.receive chars)

/-- FOB_REPLY: the characters of a READ FOB reply arrive (R82, R108). -/
def execFobReply (chars : List RxChar) (s : State) : Host.Outcome State Fault Refusal := done (s.receive chars)

/-- LATCH_REPLY: the characters of a LATCH reply arrive (R82, R91, R96). -/
def execLatchReply (chars : List RxChar) (s : State) : Host.Outcome State Fault Refusal := done (s.receive chars)

/-- LAMP_REPLY: the characters of a LAMP reply arrive (R82). -/
def execLampReply (chars : List RxChar) (s : State) : Host.Outcome State Fault Refusal := done (s.receive chars)

/-- IDENTIFY_REPLY: the characters of an IDENTIFY reply arrive (R73, R82). -/
def execIdentifyReply (chars : List RxChar) (s : State) : Host.Outcome State Fault Refusal := done (s.receive chars)

/-- REPLY_FAILED_ATTEMPT: characters arrive that break a condition of R70 (R70, R71). -/
def execReplyFailedAttempt (chars : List RxChar) (s : State) : Host.Outcome State Fault Refusal := done (s.receive chars)

/-- The frame of a retry: a LAMP frame is formed anew, any other is sent again (R29, R71). -/
def State.retryFrame (s : State) (t : Transaction) : List Byte :=
  match t.work with
  | .command (.lamp _) => s.frameFor t.work
  | _ => t.frame

/-- RETRY_ATTEMPT_START: the next attempt of the transaction begins, with one LINE RETRY event (R71). -/
def execRetryAttemptStart (s : State) : Host.Outcome State Fault Refusal :=
  match s.mlc.transaction with
  | none => done s
  | some t =>
    if t.phase = .retryDue then
      done ((s.tally .lineRetry t.work.module none).beginAttempt t.work (s.retryFrame t) (t.attempt + 1))
    else done s

/-- ROUND_TIMER_EXPIRY: the next round starts, or starts when the round still running ends (R78). -/
def execRoundTimerExpiry (s : State) : Host.Outcome State Fault Refusal :=
  match s.mlc.roundTimer with
  | .running _ =>
    if s.mlc.round.isSome then done { s with mlc := { s.mlc with roundTimer := .expired } } else done s.startRound.finish
  | _ => done s

/-- Whether the round start now due is one at which a module's rounds since probe reach 8 (R75). -/
def State.probeDue (s : State) (m : ModIx) : Bool :=
  let e := s.modEntry m
  s.mlc.round.isNone && (e.state == .unknown || e.state == .lost) && e.rounds == 7 &&
    match s.mlc.roundTimer with
    | .running _ => true
    | _ => false

/-- PROBE_DUE: the round start at which a module's rounds since probe reach 8 (R75, log entry 5). -/
def execProbeDue (m : ModIx) (s : State) : Host.Outcome State Fault Refusal :=
  if s.probeDue m then done s.startRound.finish else done s

end Sys2Proof.Machine
end

