-- ==== Sys2Proof/Machine/StartUp.lean ====
section
/-! DEFINITION. The start-up sequences (chapter 11): power-on reset, the clearing of the Common Store, the soft reset with
what each block does in its event, and the rebuild of the Due List. -/

namespace Sys2Proof.Machine

/-! ## Power-on (R172) -/

/-- POWER_ON_RESET: every block takes its power-on values; the store keeps its bytes until the clearing reaches them,
and the waiting commands are not the part's own (R172, log entry 1). -/
def execPowerOnReset (s : State) : Host.Outcome State Fault Refusal :=
  done { State.reset with pending := s.pending, store := s.store }

/-- RESET_END: the clearing of the Common Store begins at its first word (R172). -/
def execResetEnd (s : State) : Host.Outcome State Fault Refusal :=
  match s.phase with
  | .inReset => done { s with phase := .clearing 0 }
  | _ => done s

/-- One word of the store takes its cleared content; with the last word the identification begins (R172). -/
def State.clearWord (s : State) (w : Nat) : State :=
  let s := s.writeStore (2 * w) [clearedByte (2 * w), clearedByte (2 * w + 1)]
  if w + 1 < Config.storeWords then { s with phase := .clearing (w + 1) }
  else { s with phase := .powerOn, mlc := { s.mlc with identNext := 0 } }

/-- STORE_CLEARING_WORD (R172). -/
def execStoreClearingWord (s : State) : Host.Outcome State Fault Refusal :=
  match s.phase with
  | .clearing w => done (s.clearWord w)
  | _ => done s

/-! ## Soft reset (R176) -/

/-- Every module becomes UNKNOWN with its rounds, survey and expected sequence cleared; surveyed flag and marks are kept
(R72). -/
def ModEntry.softReset (e : ModEntry) : ModEntry :=
  { e with state := .unknown, rounds := 0, surveying := false, expected := none }

/-- The MLC stops, and its identification is to begin at address 0; the sequence counter is kept (R77, R83, R176). -/
def Mlc.softReset (c : Mlc) : Mlc := { Mlc.reset with modules := c.modules.map ModEntry.softReset, seq := c.seq, identNext := 0 }

/-- Every TAKEN cell becomes DONE with RESET (R165). -/
def State.resetCells (s : State) : State :=
  (List.finRange 32).foldl
    (fun s c => if s.cellByte c 0 = cellTaken then s.writeResult c { code := .reset } else s) s

/-- The Walker abandons its walk and empties its lists; spare chain and counts are kept (R15). -/
def Walker.softReset (w : Walker) : Walker := { w with walk := none, slotRequests := [], orderRequest := none }

/-- The port's bits at a soft reset; the enables and DONE SUMMARY are kept (R154, R155, R165). -/
def Port.softReset (p : Port) : Port :=
  { p with ready := false, survey := false, writeRefused := false, shelfNews := false }.evalInt

/-- Every history is cleared (R42, R62). -/
def State.clearHistories (s : State) : State :=
  (List.finRange 384).foldl (fun s k => s.modSlot k (fun r => { r with history := 0 })) s

/-- The Due List is emptied and the rebuild starts; the clock is kept (R138). -/
def Loans.softReset (l : Loans) : Loans := { l with due := [], overdue := 0, pass := none, held := false, rebuild := some 0 }

/-- The Alert Poster abandons its scan and sets its deferred flag; with a FREE entry a deferred scan starts (R151). -/
def State.resetPoster (s : State) : State :=
  let s := { s with poster := { s.poster with deferred := true, noted := false, scan := none } }
  if s.freeEntry.isSome then s.startAlertScan else s

/-- The soft reset: everything R176 lists, in one event. The MLC's part comes first, so that no lamp change of the event
makes a request. -/
def State.softReset (s : State) : State :=
  let s := { s with phase := .softReset, mlc := s.mlc.softReset }
  let s := (List.finRange 8).foldl State.resetCtx s
  let s := { s with release := Release.reset }
  let s := s.resetCells
  let s := { s with board := Board.reset, port := s.port.softReset, walker := s.walker.softReset,
                    chips := Vector.replicate 384 Chip.reset, loans := s.loans.softReset }
  s.clearHistories.resetPoster

/-! ## The rebuild (R139) -/

/-- The rebuild examines a record: an OUT record's entry joins the Due List, and counts as overdue at level 2 or 3
(R139). -/
def State.rebuildRecord (s : State) (i : RecIx) : State :=
  let r := s.key i
  if r.state = .out then
    let l := s.loans.insert i r.due
    { s with loans := { l with overdue := if 2 ≤ r.level.toNat then l.overdue + 1 else l.overdue } }
  else s

/-- The rebuild ends: a held pass starts with the clock set, and the start-up sequence is told (R139, R177). -/
def State.rebuildEnd (s : State) : State :=
  { s with loans := { s.loans.endPass with rebuild := none } }.checkReady

/-- REBUILD_STEP (R139). -/
def execRebuildStep (s : State) : Host.Outcome State Fault Refusal :=
  match s.loans.rebuild with
  | none => done s
  | some n =>
    if h : n < 1600 then
      let s := s.rebuildRecord ⟨n, h⟩
      if n = 1599 then done s.rebuildEnd.finish else done { s with loans := { s.loans with rebuild := some (n + 1) } }
    else done s

end Sys2Proof.Machine
end

