-- ==== Sys2Proof/Machine/Port.lean ====
section
/-! DEFINITION. The Port Interface (chapter 9): host reads and writes of the Common Store with their guards, the four
registers, and what a write of each register does. -/

namespace Sys2Proof.Machine

/-! ## The Common Store at the port (R152, R157, R158, R145) -/

/-- Whether the port serves accesses: from the end of RESET (R152, log entry 6). -/
def State.serving (s : State) : Bool := s.phase != .inReset

/-- HOST_STORE_READ: DATA takes the two bytes of the word as they stand (R152). A read is a command of its own, so it
never falls between two word writes of one event, which R10 and R23 let it do: the model's choice (log entry 31). -/
def execHostStoreRead (addr : BitVec 15) (s : State) : Host.Outcome State Fault Refusal :=
  if s.serving then
    done { s with port := { s.port with data := s.byte (2 * addr.toNat + 1) ++ s.byte (2 * addr.toNat) } }
  else done s

/-- Writes the enabled lanes of a word (R152). -/
def State.writeLanes (s : State) (a : Nat) (data : Half) (bel beh : Bool) : State :=
  let low : Byte := data.extractLsb' 0 8
  let high : Byte := data.extractLsb' 8 8
  match bel, beh with
  | true, true => s.writeStore a [low, high]
  | true, false => s.writeStore a [low]
  | false, true => s.writeStore (a + 1) [high]
  | false, false => s

/-- Whether the guard of a cell accepts a write: `st` is the cell's state byte, `first` whether the word is the cell's
first (R158). -/
def cellAccepts (st : Byte) (first : Bool) (low : Byte) (bel beh : Bool) : Bool :=
  let covers := first && bel
  if st = cellFree then !covers || low == 1
  else if st = cellPosted then !covers || low == 0 || low == 1
  else if st = cellDone then covers && !beh && low == 0
  else false

/-- A host write to a cell (R158). -/
def State.hostCell (s : State) (c : CellIx) (offset : Nat) (data : Half) (bel beh : Bool) : State :=
  let st := s.cellByte c 0
  if cellAccepts st (offset == 0) (data.extractLsb' 0 8) bel beh then
    let s := s.writeLanes (cellBase c + offset) data bel beh
    if st = cellDone then { s with port := s.port.clearDone c } else s
  else s.refuseWrite

/-- An accepted free of a shelf entry: the ALERT line is re-evaluated, and with the deferred flag set and no scan
running a deferred scan starts (R145). -/
def State.freeShelf (s : State) (e : EntryIx) : State :=
  let s := (s.writeStore (entryBase e) [0]).evalAlert
  if s.poster.deferred && s.poster.scan.isNone then s.startAlertScan else s

/-- A host write to the shelf: the state byte of a POSTED entry alone, value 0; all else is refused (R145, R157). -/
def State.hostShelf (s : State) (e : EntryIx) (offset : Nat) (data : Half) (bel beh : Bool) : State :=
  if offset = 0 ∧ bel ∧ !beh ∧ data.extractLsb' 0 8 = (0 : Byte) ∧ s.byte (entryBase e) = 1 then s.freeShelf e
  else s.refuseWrite

/-- A host write to the Common Store, judged by the area of its address. A write with neither lane changes nothing and
is not refused; during the clearing every other write is refused (R152, R157, R172). During the clearing R172 refuses a
host write without excepting one with neither lane. DESIGN CHOICE (log entry 38), unsafe: R152 is followed there too. -/
def State.hostWrite (s : State) (addr : BitVec 15) (data : Half) (bel beh : Bool) : State :=
  let a := 2 * addr.toNat
  if !s.serving || (!bel && !beh) then s
  else
    match s.phase with
    | .clearing _ => s.refuseWrite
    | _ =>
      if h : a < 0x0800 then s.hostCell ⟨a / 64, by omega⟩ (a % 64) data bel beh
      else if h' : a < 0x0C00 then s.hostShelf ⟨(a - 0x0800) / 32, by omega⟩ ((a - 0x0800) % 32) data bel beh
      else s.refuseWrite

/-- HOST_CELL_WRITE (R158). -/
def execHostCellWrite (addr : BitVec 15) (data : Half) (bel beh : Bool) (s : State) : Host.Outcome State Fault Refusal :=
  done (s.hostWrite addr data bel beh)

/-- HOST_SHELF_WRITE (R145, R157). -/
def execHostShelfWrite (addr : BitVec 15) (data : Half) (bel beh : Bool) (s : State) : Host.Outcome State Fault Refusal :=
  done (s.hostWrite addr data bel beh)

/-- HOST_GUARDED_AREA_WRITE (R157). -/
def execHostGuardedAreaWrite (addr : BitVec 15) (data : Half) (bel beh : Bool) (s : State) :
    Host.Outcome State Fault Refusal :=
  done (s.hostWrite addr data bel beh)

/-! ## Registers (R153–R156) -/

/-- What a register word reads (R153, R154). No row reads a register; this is the host's view (log entry 21). -/
def State.registerWord (s : State) (w : Nat) : Half :=
  let bit (b : Bool) (n : Nat) : Nat := if b then 2 ^ n else 0
  match w with
  | 0 =>
    BitVec.ofNat 16 (bit s.port.ready 0 + bit s.port.survey 1 + bit s.port.writeRefused 2 + bit s.port.shelfNews 3 +
      bit s.port.alert 4 + bit s.port.int 5)
  | 2 => s.port.doneSummary.extractLsb' 0 16
  | 3 => s.port.doneSummary.extractLsb' 16 16
  | 4 => BitVec.ofNat 16 (bit s.port.doneEnable 0 + bit s.port.shelfEnable 1)
  | _ => 0

/-- A write of PORT STATUS clears the sticky bits written as 1 (R154, R156). -/
def Port.clearSticky (p : Port) (data : Half) : Port :=
  { p with writeRefused := p.writeRefused && !data.getLsbD 2, shelfNews := p.shelfNews && !data.getLsbD 3 }.evalInt

/-- A write of PORT CONTROL takes the enables (R155, R156). -/
def Port.takeEnables (p : Port) (data : Half) : Port :=
  { p with doneEnable := data.getLsbD 0, shelfEnable := data.getLsbD 1 }.evalInt

/-- A write of PORT CONTROL: the enables, then a soft reset when bit 2 is 1, which the clearing ignores (R155, R172). -/
def State.portControl (s : State) (data : Half) : State :=
  let s := { s with port := s.port.takeEnables data }
  if data.getLsbD 2 then
    match s.phase with
    | .clearing _ => s
    | _ => s.softReset
  else s

/-- A write of a register (R153). -/
def State.registerWrite (s : State) (w : Nat) (data : Half) : State :=
  if !s.serving then s
  else
    match w with
    | 0 => { s with port := s.port.clearSticky data }
    | 1 => s.askScan
    | 4 => s.portControl data
    | _ => s

/-- PORT_STATUS_CLEAR (R154). -/
def execPortStatusClear (data : Half) (s : State) : Host.Outcome State Fault Refusal := done (s.registerWrite 0 data)

/-- ATTENTION (R153, R160). -/
def execAttention (data : Half) (s : State) : Host.Outcome State Fault Refusal := done (s.registerWrite 1 data)

/-- SET_INTERRUPT_ENABLES (R155). -/
def execSetInterruptEnables (data : Half) (s : State) : Host.Outcome State Fault Refusal := done (s.registerWrite 4 data)

/-- SOFT_RESET: a write of PORT CONTROL with bit 2 at 1 (R155, R176). -/
def execSoftReset (data : Half) (s : State) : Host.Outcome State Fault Refusal := done (s.registerWrite 4 data)

/-- REGISTER_WRITE_IGNORED (R153). -/
def execRegisterWriteIgnored (word : BitVec 15) (data : Half) (s : State) : Host.Outcome State Fault Refusal :=
  done (s.registerWrite word.toNat data)

end Sys2Proof.Machine
end

