-- ==== Sys2Proof/Machine/Dispatch.lean ====
section
/-! DEFINITION. One arm per command: what each does to everything but the queue of waiting commands. -/

namespace Sys2Proof.Machine

def exec (i : Instr) (s : State) : Host.Outcome State Fault Refusal :=
  match i with
  | .powerOnReset => Sys2Proof.Machine.execPowerOnReset s
  | .resetEnd => Sys2Proof.Machine.execResetEnd s
  | .storeClearingWord => Sys2Proof.Machine.execStoreClearingWord s
  | .hostStoreRead addr => Sys2Proof.Machine.execHostStoreRead addr s
  | .hostCellWrite addr data bel beh => Sys2Proof.Machine.execHostCellWrite addr data bel beh s
  | .hostShelfWrite addr data bel beh => Sys2Proof.Machine.execHostShelfWrite addr data bel beh s
  | .hostGuardedAreaWrite addr data bel beh => Sys2Proof.Machine.execHostGuardedAreaWrite addr data bel beh s
  | .portStatusClear data => Sys2Proof.Machine.execPortStatusClear data s
  | .attention data => Sys2Proof.Machine.execAttention data s
  | .setInterruptEnables data => Sys2Proof.Machine.execSetInterruptEnables data s
  | .softReset data => Sys2Proof.Machine.execSoftReset data s
  | .registerWriteIgnored word data => Sys2Proof.Machine.execRegisterWriteIgnored word data s
  | .scanTimerExpiry => Sys2Proof.Machine.execScanTimerExpiry s
  | .scanExamination => Sys2Proof.Machine.execScanExamination s
  | .badKind cell => Sys2Proof.Machine.execBadKind cell s
  | .enrolKey cell => Sys2Proof.Machine.execEnrolKey cell s
  | .retireKey cell => Sys2Proof.Machine.execRetireKey cell s
  | .armKey cell => Sys2Proof.Machine.execArmKey cell s
  | .disarmKey cell => Sys2Proof.Machine.execDisarmKey cell s
  | .findKey cell => Sys2Proof.Machine.execFindKey cell s
  | .pinSlot cell => Sys2Proof.Machine.execPinSlot cell s
  | .unpinSlot cell => Sys2Proof.Machine.execUnpinSlot cell s
  | .withdrawSlot cell => Sys2Proof.Machine.execWithdrawSlot cell s
  | .restoreSlot cell => Sys2Proof.Machine.execRestoreSlot cell s
  | .handOut cell => Sys2Proof.Machine.execHandOut cell s
  | .cancelHandOut cell => Sys2Proof.Machine.execCancelHandOut cell s
  | .declareLost cell => Sys2Proof.Machine.execDeclareLost cell s
  | .extendLoan cell => Sys2Proof.Machine.execExtendLoan cell s
  | .setClock cell => Sys2Proof.Machine.execSetClock cell s
  | .setCounter cell => Sys2Proof.Machine.execSetCounter cell s
  | .readCounters cell => Sys2Proof.Machine.execReadCounters cell s
  | .setParameter cell => Sys2Proof.Machine.execSetParameter cell s
  | .walkStep => Sys2Proof.Machine.execWalkStep s
  | .walkCompletion => Sys2Proof.Machine.execWalkCompletion s
  | .lineWorkStart => Sys2Proof.Machine.execLineWorkStart s
  | .requestFrameSent => Sys2Proof.Machine.execRequestFrameSent s
  | .waitTimerExpiry timer => Sys2Proof.Machine.execWaitTimerExpiry timer s
  | .replyTimerExpiry => Sys2Proof.Machine.execReplyTimerExpiry s
  | .countsReply chars => Sys2Proof.Machine.execCountsReply chars s
  | .fobReply chars => Sys2Proof.Machine.execFobReply chars s
  | .latchReply chars => Sys2Proof.Machine.execLatchReply chars s
  | .lampReply chars => Sys2Proof.Machine.execLampReply chars s
  | .identifyReply chars => Sys2Proof.Machine.execIdentifyReply chars s
  | .roundTimerExpiry => Sys2Proof.Machine.execRoundTimerExpiry s
  | .probeDue module => Sys2Proof.Machine.execProbeDue module s
  | .removalTimerExpiry ctx => Sys2Proof.Machine.execRemovalTimerExpiry ctx s
  | .settleEnd ctx => Sys2Proof.Machine.execSettleEnd ctx s
  | .jamReissue => Sys2Proof.Machine.execJamReissue s
  | .secondTick => Sys2Proof.Machine.execSecondTick s
  | .minuteEvent => Sys2Proof.Machine.execMinuteEvent s
  | .passVisit => Sys2Proof.Machine.execPassVisit s
  | .rebuildStep => Sys2Proof.Machine.execRebuildStep s
  | .deferredScanStep => Sys2Proof.Machine.execDeferredScanStep s
  | .replyFailedAttempt chars => Sys2Proof.Machine.execReplyFailedAttempt chars s
  | .retryAttemptStart => Sys2Proof.Machine.execRetryAttemptStart s

end Sys2Proof.Machine
end

