-- ==== Sys2Proof/Safety.lean ====
section
/-! DEFINITION. The terms the statements are made in: what holds between events, what a cell holds after a result, which
bytes a command may touch, and the laws of the manual that every command keeps. -/

namespace Sys2Proof.Machine

/-! ## Bytes -/

/-- An address lies in the `n` bytes at `a`. -/
abbrev inBlock (a n x : Nat) : Prop := a ≤ x ∧ x < a + n

/-- The bytes of a cell that a result without data writes: the state byte and bytes 4 to 7 (R163). -/
abbrev inResult (c : CellIx) (x : Nat) : Prop := x = cellBase c ∨ inBlock (cellBase c + 4) 4 x

/-! ## Results -/

/-- A cell is DONE with a result: code, detail, index, and its DONE SUMMARY bit (R163). -/
def State.holdsResult (s : State) (c : CellIx) (code : Code) (detail : Byte) (index : Half) : Prop :=
  s.cellByte c 0 = cellDone ∧ s.cellByte c 4 = code.byte ∧ s.cellByte c 5 = detail ∧ half (s.cellByte c) 6 = index ∧
    s.port.doneSummary.getLsbD c.val = true

/-- What an order that ends in the event it begins may change besides its own effect: the cell turns DONE, and the board
has taken the cell and moved its scan on. -/
def State.orderFrame (s t : State) (c : CellIx) : Prop :=
  t.port = s.port.setDone c ∧
    t.board = { s.board with lastTaken := c, scan := t.board.scan, scanOwed := t.board.scanOwed } ∧
    t = { s with store := t.store, port := t.port, board := t.board }

/-- A slot order whose slot number is above 383 ends BAD PARAMETER with detail 0 and index 0xFFFF, and changes nothing
else (R31). -/
def State.slotChecked (s : State) (c : CellIx) (order : Instr) : Prop :=
  384 ≤ (half (s.cellByte c) 8).toNat →
    ∃ t, exec order s = .next t ∧ t.holdsResult c .badParameter 0 0xFFFF ∧ (∀ x, ¬ inResult c x → t.byte x = s.byte x) ∧
      s.orderFrame t c

/-- The walk the Walker begins for a request: at the head of the fob's home chain, or on no chain (R4, R14, R16). -/
def State.begunWalk (s : State) (asker : Asker) (fob : Word) (chain : Bool) : Walk :=
  let home := homeIndex fob s.params.homeSpan
  { asker := asker, fob := fob, home := home, cursor := if chain then s.home home else 0xFFFF, depth := 0, pred := none,
    found := none }

/-- An order has begun and waits for its walk: its cell is TAKEN, its copy and window are held, and its walk request is
granted by a free Walker, or waits behind the walk in progress (R13, R14, R161, R162). -/
def State.waitsForWalk (s t : State) (c : CellIx) (window : Nat) (fob : Word) (chain : Bool) : Prop :=
  (∃ o, t.board.execution = some { order := o, window := window } ∧ o.cell = c ∧
    ∀ n, 1 ≤ n → n < 64 → o.byte n = s.cellByte c n) ∧
  t.walker = (if s.walker.walk = none then
    { s.walker with walk := some (s.begunWalk .order fob chain) }
    else { s.walker with orderRequest := some { fob := fob, chain := chain } }) ∧
  t.cellByte c 0 = cellTaken ∧ (∀ x, x ≠ cellBase c → t.byte x = s.byte x) ∧
  t = { s with store := t.store, board := t.board, walker := t.walker }

/-! ## Tally events -/

/-- Whether a counter counts an event of the kind with this number, module and class (R167). -/
def Counter.counts (c : Counter) (kind : Nat) (module : Option ModIx) (cls : Option Byte) : Prop :=
  c.accumulate = false ∧ c.kinds.getLsbD kind = true ∧ (∀ m, module = some m → c.moduleMask.getLsbD m.val = true) ∧
    ∀ b, cls = some b → c.classMask.getLsbD b.toNat = true

/-- Between two states one tally event was raised: each counter that counts it has added 1 modulo 2^48, its overflow
flag set by a wrap, and no other counter has changed (R167, R169). -/
def State.talliedOnce (s t : State) (kind : Nat) (module : Option ModIx) (cls : Option Byte) : Prop :=
  ∀ j : CounterIx,
    (s.counters[j.val].counts kind module cls → t.counters[j.val] =
      { s.counters[j.val] with value := s.counters[j.val].value + 1,
                               overflow := s.counters[j.val].overflow || s.counters[j.val].value == -1 }) ∧
    (¬ s.counters[j.val].counts kind module cls → t.counters[j.val] = s.counters[j.val])

/-! ## Between events -/

/-- No alert is left to post: true between events, and after reset (R142). -/
def State.quiet (s : State) : Prop := s.poster.offered = []

/-! ## Walks -/

/-- The order in execution meets its walk's completion event, with nothing else waiting: no order queued, no request
waiting for the Walker (R12, R13). -/
def State.completing (s : State) (e : Execution) (w : Walk) : Prop :=
  s.quiet ∧ s.walker.walk = some w ∧ w.asker = .order ∧ s.board.execution = some e ∧ s.board.intake = [] ∧
    s.walker.slotRequests = [] ∧ s.walker.orderRequest = none ∧ (w.found ≠ none ∨ recOf w.cursor = none)

/-- Waiting lookups for invalid fob IDs, of one slot each, that their slots still look for: each is answered NOT FOUND
at its grant and is not discarded (R7, R111). -/
def State.answeredAtGrant (s : State) (l : List SlotRequest) : Prop :=
  (l.map SlotRequest.slot).Nodup ∧
    ∀ q ∈ l, (q.fob = 0 ∨ q.fob = 0xFFFFFFFF) ∧ (s.slot q.slot).state = .identifying ∧
      (s.chip q.slot).step = .looking ∧ (s.slot q.slot).fobSeen = q.fob

/-- The slot of each of these lookups has become an UNKNOWN FOB stranger with its step NONE, and every other slot and
its on-chip state are as before (R113). -/
def State.strangersOf (s t : State) (l : List SlotRequest) : Prop :=
  (∀ q ∈ l, (t.slot q.slot).state = .stranger ∧ (t.slot q.slot).reason = .unknownFob ∧
    (t.slot q.slot).fobSeen = q.fob ∧ (t.chip q.slot).step = .none) ∧
  ∀ j, (∀ q ∈ l, j ≠ q.slot) → t.slot j = s.slot j ∧ t.chip j = s.chip j

/-- The order has ended in that event: its cell is DONE, the Order Unit is idle and the Walker free. -/
def State.orderEnded (s t : State) (c : CellIx) : Prop :=
  t.port = s.port.setDone c ∧ t.board = { s.board with execution := none } ∧ t.walker.walk = none

/-- The order has ended in that event with nothing changed besides its cell's result. -/
def State.orderRefused (s t : State) (c : CellIx) : Prop :=
  s.orderEnded t c ∧ (∀ x, ¬ inResult c x → t.byte x = s.byte x) ∧
    t = { s with store := t.store, port := t.port, board := t.board, walker := { s.walker with walk := none } }

/-- The depth an order reports, saturating at 255 (R14). -/
def Walk.reported (w : Walk) : Byte := BitVec.ofNat 8 (min w.depth 255)

/-! ## Counts of a module (chapter 3) -/

/-- A COUNTS reply of the current round is due for a module, and these characters complete it: its sequence is the one
expected, its window the one in force, and the round has other modules to read after it (R70, R76, R77). -/
def State.countsArrive (s : State) (m : ModIx) (chars : List RxChar) (data : List Byte) (r : Round) (rest : List ModIx) :
    Prop :=
  (∃ x a, s.mlc.transaction = some x ∧ x.phase = .awaiting ∧ x.work = .roundRead m ∧ x.work.awaited = some a ∧
    judge a (x.received ++ chars) = .good data) ∧
  s.mlc.round = some r ∧ r.stage = .reading ∧ r.readList = m :: rest ∧ rest ≠ [] ∧
  (s.modEntry m).expected = some { seq := data.getD 0 0, window := s.params.window }

/-- Entry `n` of a history, newest first: 0 none, 1 ABSENT, 2 PRESENT, 3 INVALID (section 3.3). -/
def historyEntry (h : Word) (n : Nat) : BitVec 2 := h.extractLsb' (2 * n) 2

/-- The verdict of a count at a slot as its history entry: INVALID for 0 and 4,095; ABSENT while the baseline is
unlearned; by the delta against the two thresholds; between them the newest valid entry, or ABSENT (R45–R48). -/
def State.verdict (s : State) (k : SlotIx) (c : Half) : BitVec 2 :=
  let r := s.slot k
  let base := r.baseline.toNat / 16
  if c = 0 ∨ c = 4095 then 3
  else if r.learned = false then 1
  else if c.toNat + s.params.onThreshold ≤ base then 2
  else if base ≤ c.toNat + s.params.offThreshold then 1
  else if ∃ n : Fin 16, historyEntry r.history n = 2 ∧
      ∀ j : Fin 16, j < n → historyEntry r.history j ≠ 1 ∧ historyEntry r.history j ≠ 2 then 2
  else 1

/-- The history of a slot with the verdict of a count as its newest entry (R49). -/
def State.historyAfter (s : State) (k : SlotIx) (c : Half) : Word :=
  ((s.slot k).history <<< 2) ||| (s.verdict k c).setWidth 32

/-- A count leaves a run of `n` or more of its verdict at the newest end of the history (R49). -/
abbrev State.runAtLeast (s : State) (k : SlotIx) (c : Half) (n : Nat) : Prop :=
  ∀ j, j < n → historyEntry (s.historyAfter k c) j = s.verdict k c

/-- A count leaves an ABSENT or PRESENT run of CONFIRM COUNT or more, which decides the presence (R50). -/
abbrev State.confirmed (s : State) (k : SlotIx) (c : Half) : Prop :=
  s.verdict k c ≠ 3 ∧ s.runAtLeast k c s.params.confirmCount

/-- The run that a count extends has been reported before (R51). -/
abbrev State.runReportedBefore (s : State) (k : SlotIx) (c : Half) : Prop :=
  historyEntry (s.slot k).history 0 = s.verdict k c ∧ (s.chip k).runReported = true

/-- A count is reported as the confirmation of its verdict, or as a change of the decision to it (R50, R51). -/
abbrev State.reported (s : State) (k : SlotIx) (c : Half) : Prop :=
  (s.slot k).state ≠ .withdrawn ∧ s.confirmed k c ∧
    (¬ s.runReportedBefore k c ∨ (s.slot k).decided ≠ decide (s.verdict k c = 2))

/-- A count is the eighth INVALID of its run at a slot that is not WITHDRAWN or FAULT (R52). -/
abbrev State.eighthInvalid (s : State) (k : SlotIx) (c : Half) : Prop :=
  (s.slot k).state ≠ .withdrawn ∧ (s.slot k).state ≠ .fault ∧ s.verdict k c = 3 ∧ s.runAtLeast k c 8 ∧
    historyEntry (s.historyAfter k c) 8 ≠ 3

/-- No report of a count concerns the state of its slot: none is made, or it is one of PRESENT for a slot with something
in it, or of ABSENT for an EMPTY one. -/
abbrev State.undisturbed (s : State) (k : SlotIx) (c : Half) : Prop :=
  ¬ s.eighthInvalid k c ∧
    (s.reported k c →
      s.verdict k c = 1 ∧ (s.slot k).state = .empty ∨
      s.verdict k c = 2 ∧ (s.slot k).state ∈ [SlotState.identifying, .held, .stranger, .releasing, .relatching])

/-- Nothing of a slot changed but what the Presence Engine writes. -/
def State.onlySensed (s t : State) (k : SlotIx) : Prop :=
  t.slot k = { s.slot k with
    raw := (t.slot k).raw, history := (t.slot k).history, decided := (t.slot k).decided,
    baseline := (t.slot k).baseline, learned := (t.slot k).learned }

/-- Of a module's counts only that of one position disturbs its slot, and no other slot of the module has a settle
running: what the reply does besides sensing, it does to that slot. -/
def State.reportsOnly (s : State) (m : ModIx) (p : PosIx) (count : PosIx → Half) : Prop :=
  (∀ q, q ≠ p → s.undisturbed (slotAt m q) (count q)) ∧
    ∀ c y, s.ctx c = some y → moduleOf y.slot = m → y.slot ≠ slotAt m p → y.settle = none

/-- A slot record after its own count: raw count, history, decision and learned baseline (R43, R47, R49, R50). -/
def State.sensed (s : State) (k : SlotIx) (c : Half) (present : Bool) : SlotRec :=
  { s.slot k with
    raw := c, history := s.historyAfter k c, decided := present, learned := true
    baseline := if (s.slot k).learned then (s.slot k).baseline else BitVec.ofNat 16 (16 * c.toNat) }

/-- A slot record that has become EMPTY in that event (R27, R29). -/
def SlotRec.cleared (r : SlotRec) : SlotRec :=
  { r with state := .empty, lamp := .off, key := 0xFFFF, attempts := 0, reason := .unknownFob, fobSeen := 0,
           surveyFound := false, markStranger := false }

/-! ## The Due List and a running pass (sections 7.2, 7.4)

A pass's cursor counts the entries that stand before it; the last of them was visited last. -/

/-- An entry has joined the list behind `n` others: behind the cursor when it stands before the last entry visited, and
ahead of it otherwise (R136). -/
def Pass.afterInsertion (n : Nat) (p : Pass) : Pass := { p with cursor := p.cursor + if n < p.cursor then 1 else 0 }

/-- The entry behind `n` others has left the list: one the cursor has passed is gone, and the next entry to visit is the
same; one it has not passed is not visited (R136). Where the cursor stands once the last entry visited has left is the
model's choice (log entry 12). -/
def Pass.afterRemoval (n : Nat) (p : Pass) : Pass := { p with cursor := p.cursor - if n < p.cursor then 1 else 0 }

/-- A record's entry has joined the Due List after every entry due at or before it, and nothing else of the Loan Watch
has changed but a running pass's cursor (R128, R136). -/
def State.dueJoined (s t : State) (i : RecIx) (due : Word) : Prop :=
  ∀ l1 l2, s.loans.due = l1 ++ l2 → (∀ x ∈ l1, x.due.toNat ≤ due.toNat) → (∀ x ∈ l2.head?, due.toNat < x.due.toNat) →
    t.loans = { s.loans with due := l1 ++ { key := i, due := due } :: l2
                             pass := s.loans.pass.map (Pass.afterInsertion l1.length) }

/-- A record's entry has left the Due List, the overdue count has followed the level it leaves with, and nothing else of
the Loan Watch has changed but a running pass's cursor; a record with no entry changes nothing (R129, R130, R136,
R139). -/
def State.dueLeft (s t : State) (i : RecIx) : Prop :=
  (∀ l1 l2 d, s.loans.due = l1 ++ { key := i, due := d } :: l2 → (∀ x ∈ l1, x.key ≠ i) →
    t.loans = { s.loans with due := l1 ++ l2
                             overdue := s.loans.overdue - (if 2 ≤ (s.key i).level.toNat then 1 else 0)
                             pass := s.loans.pass.map (Pass.afterRemoval l1.length) }) ∧
  ((∀ x ∈ s.loans.due, x.key ≠ i) → t.loans = s.loans)

/-! ## Posted alerts (section 8.1) -/

/-- A shelf entry is the FREE one of lowest index (R142). -/
def State.lowestFree (s : State) (e : EntryIx) : Prop :=
  s.byte (entryBase e) = 0 ∧ ∀ e', e' < e → s.byte (entryBase e') ≠ 0

/-- Two shelf entries are the FREE ones of lowest index, in their order. -/
def State.lowestTwoFree (s : State) (e e' : EntryIx) : Prop :=
  s.lowestFree e ∧ e < e' ∧ s.byte (entryBase e') = 0 ∧ ∀ x, e < x → x < e' → s.byte (entryBase x) ≠ 0

/-- One shelf entry alone is FREE. -/
def State.onlyFree (s : State) (e : EntryIx) : Prop :=
  s.lowestFree e ∧ ∀ e', e' ≠ e → s.byte (entryBase e') ≠ 0

/-- The ALERT line is asserted exactly when an entry is POSTED with an urgency at or above LINE URGENCY (R150). -/
def State.alertOk (s : State) : Prop :=
  s.port.alert = true ↔
    ∃ e : EntryIx, s.byte (entryBase e) = 1 ∧ s.params.lineUrgency ≤ (s.byte (entryBase e + 2)).toNat

/-- What a post leaves at the port: SHELF NEWS set and the ALERT line re-evaluated (R142). -/
def State.postNoticed (t : State) : Prop := t.port.shelfNews = true ∧ t.alertOk

/-- A shelf entry holds an alert of a kind and urgency that names a slot, with its module, and a key or none. -/
def State.showsSlot (t : State) (e : EntryIx) (kind urgency : Byte) (k : SlotIx) (key : Half) : Prop :=
  (t.byte (entryBase e) = 1 ∧ t.byte (entryBase e + 1) = kind ∧ t.byte (entryBase e + 2) = urgency) ∧
    half t.byte (entryBase e + 4) = ofIx k ∧ half t.byte (entryBase e + 6) = key ∧
    half t.byte (entryBase e + 28) = ofIx (moduleOf k) ∧ t.postNoticed

/-- A shelf entry holds an alert of a kind, urgency and level, with its slot, key and module fields. -/
def State.showsAlert (t : State) (e : EntryIx) (kind urgency level : Byte) (slot key module : Half) : Prop :=
  (t.byte (entryBase e) = 1 ∧ t.byte (entryBase e + 1) = kind ∧ t.byte (entryBase e + 2) = urgency ∧
      t.byte (entryBase e + 3) = level) ∧
    half t.byte (entryBase e + 4) = slot ∧ half t.byte (entryBase e + 6) = key ∧
    half t.byte (entryBase e + 28) = module ∧ t.postNoticed

/-- A shelf entry carries the fob ID and the vehicle tag of a key record. -/
def State.showsFob (t : State) (e : EntryIx) (r : KeyRec) : Prop :=
  word t.byte (entryBase e + 8) = r.fob ∧ word t.byte (entryBase e + 12) = r.vehicle

/-- Between two states an alert was deferred: the deferred flag is set, and the deferral noted while a scan runs (R144).
-/
def State.hasDeferred (s t : State) : Prop :=
  t.poster = { s.poster with deferred := true, noted := s.poster.noted || s.poster.scan.isSome }

/-- The deferred scan's order of examination: modules, slots, key records, each ascending (R146). -/
def scanFollows : ScanCursor → ScanCursor → Prop
  | .module a, .module b => b.val = a.val + 1
  | .module a, .slot b => a.val = 15 ∧ b.val = 0
  | .slot a, .slot b => b.val = a.val + 1
  | .slot a, .key b => a.val = 383 ∧ b.val = 0
  | .key a, .key b => b.val = a.val + 1
  | _, _ => False

/-! ## Module loss (R74) -/

/-- Between two states the MLC has declared a module LOST, with its alert in shelf entry `e`: its entry, its requests,
its read and its survey are gone; its slots are changed and its contexts ended; a latch in `reissued` is JAMMED again
(R38, R74, R99, R102). -/
def State.losesModule (s t : State) (m : ModIx) (e : EntryIx) (reissued : SlotIx → Prop) : Prop :=
  let others := fun l : List LineRequest => l.filter (fun r => decide (moduleOf r.slot ≠ m))
  let room := 32 - (others s.mlc.queue).length
  s.talliedOnce t 10 (some m) none ∧
  t.modEntry m = { s.modEntry m with state := .lost, lostMark := false, rounds := 0, surveying := false,
                                     expected := none } ∧
  (∀ j, j ≠ m → t.modEntry j = s.modEntry j) ∧
  (t.mlc.transaction = none ∧ t.mlc.queue = others s.mlc.queue ++ (others s.mlc.waiting).take room ∧
    t.mlc.waiting = (others s.mlc.waiting).drop room ∧
    t.mlc.round = s.mlc.round.map (fun r => { r with readList := r.readList.erase m }) ∧
    t.mlc.survey = s.mlc.survey.filter (fun v => decide (v.module ≠ m))) ∧
  (∀ c y, s.ctx c = some y → (moduleOf y.slot ≠ m → t.ctx c = some y) ∧ (moduleOf y.slot = m → t.ctx c = none ∧
    ∀ i cell, y.key = some i → y.cell = some cell →
      (∀ c' y', s.ctx c' = some y' → moduleOf y'.slot = m → c' ≠ c → y'.cell ≠ some cell) →
      t.holdsResult cell (if y.state = .waiting then .moduleLost else .lineFailure) (BitVec.ofNat 8 c.val) (ofIx i))) ∧
  t.release.reservations = s.release.reservations - ((List.finRange 8).filter (fun c =>
    (s.ctx c).any (fun y => decide (moduleOf y.slot = m) && y.key.isSome))).length ∧
  (∀ k, moduleOf k = m →
    let lost := (s.slot k).state ∈ [SlotState.held, .releasing, .relatching, .identifying, .stranger, .unverified]
    (t.slot k).state = (if lost then .unverified else (s.slot k).state) ∧
    (reissued k → (t.slot k).latch = .jammed) ∧ (¬ reissued k → (t.slot k).latch = (s.slot k).latch) ∧
    (t.slot k).key = (s.slot k).key ∧ (t.slot k).history = (s.slot k).history ∧
    (t.slot k).attempts = (if lost then 0 else (s.slot k).attempts) ∧
    (t.chip k).latchOut = none ∧ (t.chip k).latchOwed = none ∧ (t.chip k).readOut = false) ∧
  (∀ k, moduleOf k ≠ m → t.slot k = s.slot k ∧ t.chip k = s.chip k) ∧
  (∀ k i, moduleOf k = m → (s.slot k).state ∈ [SlotState.held, .releasing, .relatching] → (s.slot k).key = ofIx i →
    (t.key i).state = .check) ∧
  (t.byte (entryBase e) = 1 ∧ t.byte (entryBase e + 1) = 12 ∧ t.byte (entryBase e + 2) = 3 ∧
    half t.byte (entryBase e + 28) = ofIx m) ∧ t.postNoticed

/-! ## Laws every command keeps -/

/-- The Common Store has its canonical form. -/
def State.storeOk (s : State) : Prop := s.store.wf

/-- INT is what R156 makes of DONE SUMMARY, SHELF NEWS and their enables. -/
def State.intOk (s : State) : Prop :=
  s.port.int = (s.port.doneSummary != 0 && s.port.doneEnable || s.port.shelfNews && s.port.shelfEnable)

/-- Every parameter but HOME SPAN lies in its range, OFF THRESHOLD below ON THRESHOLD, ESCALATION above GRACE (section
11.3, R56, R178). HOME SPAN, put in force by a walk, has `State.spanOk` (R16). -/
def State.paramsOk (s : State) : Prop :=
  let p := s.params
  (64 ≤ p.window ∧ p.window ≤ 4095) ∧ (8 ≤ p.onThreshold ∧ p.onThreshold ≤ 2000) ∧ p.offThreshold < p.onThreshold ∧
  (2 ≤ p.confirmCount ∧ p.confirmCount ≤ 8) ∧ (1 ≤ p.driftShift ∧ p.driftShift ≤ 7) ∧ p.seedDelta ≤ 2000 ∧
  (100 ≤ p.roundPeriod ∧ p.roundPeriod ≤ 2000) ∧ (1 ≤ p.replyTimeout ∧ p.replyTimeout ≤ 20) ∧
  (p.measureGroups = 1 ∨ p.measureGroups = 2 ∨ p.measureGroups = 4) ∧ (3 ≤ p.lineDivider ∧ p.lineDivider ≤ 207) ∧
  (5 ≤ p.removalWindow ∧ p.removalWindow ≤ 120) ∧ p.grace ≤ 240 ∧ (p.grace < p.escalation ∧ p.escalation ≤ 10080) ∧
  (1 ≤ p.announceFrom ∧ p.announceFrom ≤ 3) ∧ (1 ≤ p.lineUrgency ∧ p.lineUrgency ≤ 3)

/-- A value that HOME SPAN takes (R16). -/
abbrev legalSpan (v : Nat) : Prop := v = 256 ∨ v = 512 ∨ v = 1024

/-- HOME SPAN has one of its values, and so does the order whose walk is to put it in force (R16, section 11.3). -/
def State.spanOk (s : State) : Prop :=
  legalSpan s.params.homeSpan ∧
    ∀ e, s.board.execution = some e → e.order.kind = 17 → legalSpan (word e.order.byte 12).toNat

/-- The line command queue holds at most 32 requests, and requests wait on the pending list only while it is full (R79,
R80). -/
def State.lineOk (s : State) : Prop :=
  s.mlc.queue.length ≤ 32 ∧ (s.mlc.waiting ≠ [] → s.mlc.queue.length = 32)

end Sys2Proof.Machine
end

