-- ==== Sys2Proof/Certificates/Slice0/Obligations.lean ====
section
/-! DEFINITION. The statements for the provers. -/

open Sys2Proof Sys2Proof.Machine

/-! ## The machine -/

/-- A step takes the command at the front of the queue and runs it with the queue's rest; with none waiting the block
idles, which is the model's choice (log entry 2). -/
def Obligations.StepRunsFront : Prop :=
  ∀ s : State, (∀ c q, s.pending = c :: q → step s = exec c (s.withPending q)) ∧ (s.pending = [] → step s = .next s)

/-- Every command answers a next state from every state, and leaves the queue of waiting commands as it is. A command
whose event is not due changes nothing, which is the model's choice (log entry 3). -/
def Obligations.EveryCommandCompletes : Prop :=
  ∀ (i : Instr) (s : State), ∃ t, exec i s = .next t ∧ t.pending = s.pending

/-- Every step keeps the canonical form of the Common Store. -/
def Obligations.StepKeepsStore : Prop := ∀ s t, s.storeOk → step s = .next t → t.storeOk

/-- Every step keeps INT asserted exactly while DONE SUMMARY is not 0 and DONE ENABLE is 1, or SHELF NEWS is 1 and SHELF
ENABLE is 1. The INT bit of PORT STATUS follows the line, and after a power-on reset the line is deasserted. -/
def Obligations.StepKeepsInt : Prop :=
  (∀ s t, s.intOk → step s = .next t → t.intOk) ∧
  (∀ s : State, (s.registerWord 0).getLsbD 5 = s.port.int) ∧
  ∀ s, ∃ t, exec .powerOnReset s = .next t ∧ t.port.int = false

/-- Every step keeps every parameter in its range, OFF THRESHOLD below ON THRESHOLD and ESCALATION above GRACE. HOME
SPAN stays 256, 512 or 1,024 together with the value of the SET PARAMETER order, if one is in execution, whose walk is
to put it in force. -/
def Obligations.StepKeepsParameters : Prop :=
  (∀ s t, s.paramsOk → step s = .next t → t.paramsOk) ∧ ∀ s t, s.spanOk → step s = .next t → t.spanOk

/-- Every step keeps the line command queue at 32 requests or fewer, and full while requests wait on the pending list.
-/
def Obligations.StepKeepsLineQueue : Prop := ∀ s t, s.lineOk → step s = .next t → t.lineOk

/-- The model's own list of the alerts offered in an event (log entry 14) is empty again after every step: no alert of
one event is left for another. What the taking of an alert does stands in the statements of the commands that offer one.
Once the store has been cleared, every step keeps the ALERT line asserted exactly while an entry is POSTED with an
urgency at or above LINE URGENCY, until a power-on reset. -/
def Obligations.StepLeavesNoAlert : Prop :=
  (∀ s t, s.quiet → step s = .next t → t.quiet) ∧
  ∀ s t, s.phase ≠ .inReset → (∀ w, s.phase ≠ .clearing w) → s.alertOk → step s = .next t →
    t.phase = .inReset ∨ t.alertOk

/-- The state after reset meets every invariant that steps keep. -/
def Obligations.ResetMeetsInvariants : Prop :=
  State.reset.storeOk ∧ State.reset.intOk ∧ State.reset.paramsOk ∧ State.reset.spanOk ∧ State.reset.lineOk ∧ State.reset.quiet ∧ State.reset.alertOk

/-! ## Start-up -/

/-- POWER_ON_RESET gives every block the power-on values of the manual. That the store keeps its bytes until the
clearing reaches them is the model's choice (log entry 1). -/
def Obligations.PowerOnValues : Prop :=
  ∀ s, ∃ t, exec .powerOnReset s = .next t ∧ t.phase = .inReset ∧
    t.walker = { walk := none, slotRequests := [], orderRequest := none, spareHead := 0, inUse := 0, spare := 1600 } ∧
    (∀ m, t.modEntry m = { state := .unknown, lostMark := false, backMark := false, rounds := 0, surveyed := false,
                           surveying := false, expected := none }) ∧
    (t.mlc.queue = [] ∧ t.mlc.waiting = [] ∧ t.mlc.transaction = none ∧ t.mlc.round = none ∧ t.mlc.survey = none ∧
      t.mlc.seq = 0 ∧ t.mlc.roundTimer = .stopped) ∧
    (∀ k, t.chip k = { step := .none, readOut := false, runReported := false, latchOut := none, latchOwed := none,
                       reissued := false }) ∧
    (∀ c, t.ctx c = none) ∧ (∀ m, t.waitList m = []) ∧
    (t.release.reservations = 0 ∧ t.release.roundEnds = 0 ∧ t.release.waitingCount = 0) ∧
    t.heldSlots = 0 ∧ t.emptySlots = 384 ∧
    t.loans = { minute := 0, second := 0, clockSet := false, due := [], overdue := 0, pass := none, held := false,
                rebuild := none } ∧
    (t.poster.deferred = false ∧ t.poster.noted = false ∧ t.poster.scan = none) ∧
    (∀ j : CounterIx, t.counters[j.val] = { value := 0, accumulate := false, kinds := 0, moduleMask := 0, classMask := 0,
                                            overflow := false }) ∧
    t.board = { lastTaken := 31, intake := [], scan := none, scanOwed := false, execution := none } ∧
    (∀ w, t.registerWord w = 0) ∧ t.port.int = false ∧ t.port.alert = false ∧
    t.params = { homeSpan := 512, window := 1000, onThreshold := 120, offThreshold := 60, confirmCount := 3,
                 driftShift := 4, seedDelta := 200, roundPeriod := 250, replyTimeout := 5, measureGroups := 1,
                 lineDivider := 3, removalWindow := 30, grace := 30, escalation := 240, announceFrom := 2,
                 lineUrgency := 3 } ∧
    t.store = s.store

/-- The end of RESET starts the clearing at word 0; each clearing event writes one word and goes on to the next; the
last word's event begins the identification at address 0. What the clearing writes is 0 in cells and shelf entries, the
empty slot record in the Slot Map, 0xFFFF in the Home Table, and the unused record in the Record Pool with the spare
chain ascending. -/
def Obligations.StoreIsCleared : Prop :=
  (∀ s, s.phase = .inReset → exec .resetEnd s = .next { s with phase := .clearing 0 }) ∧
  (∀ s w, s.phase = .clearing w → ∃ t, exec .storeClearingWord s = .next t ∧
    t.byte (2 * w) = clearedByte (2 * w) ∧ t.byte (2 * w + 1) = clearedByte (2 * w + 1) ∧
    (∀ x, ¬ inBlock (2 * w) 2 x → t.byte x = s.byte x) ∧
    (w < 32767 → t = { s with store := t.store, phase := .clearing (w + 1) }) ∧
    (32767 ≤ w → t = { s with store := t.store, phase := .powerOn, mlc := { s.mlc with identNext := 0 } })) ∧
  (∀ x, x < 0x0C00 → clearedByte x = 0) ∧
  (∀ k : SlotIx, SlotRec.decode (fun n => clearedByte (slotBase k + n)) =
    { state := .empty, latch := .closed, lamp := .off, decided := false, pinned := false, surveyFound := false,
      learned := false, reason := .unknownFob, baseline := 0, raw := 0, history := 0, key := 0xFFFF, fobSeen := 0,
      pinnedFob := 0, markStranger := false, markWrongSlot := false, markSlotFault := false, markLatchFault := false,
      attempts := 0 }) ∧
  (∀ j, j < 1024 → half clearedByte (homeBase j) = 0xFFFF) ∧
  (∀ i : RecIx, KeyRec.decode (fun n => clearedByte (keyBase i + n)) =
    { state := .unused, armed := false, keyBack := false, forcedRemoval := false, keyUnaccounted := false,
      returnedLate := false, cls := 0, level := 0, announced := 0,
      next := if i.val = 1599 then 0xFFFF else BitVec.ofNat 16 (i.val + 1), slot := 0xFFFF, fob := 0, vehicle := 0,
      agreement := 0, handOut := 0, due := 0, lateness := 0, closedLoans := 0 })

/-- A soft reset: modules UNKNOWN with marks and surveyed flags kept, contexts freed, the wait lists, the line, walks,
scans and the Due List emptied, the round timer stopped, identification and rebuild started, READY, SURVEY, WRITE
REFUSED and SHELF NEWS cleared, the enables of the write taken, and the clock, the spare chain, the counters and the
parameters kept. TAKEN cells are DONE with RESET, every other cell is kept; the RELEASING or RELATCHING slot of a
context that refers to its key is UNVERIFIED and the record CHECK; every history is cleared and nothing else of the
slots and records changes; each slot's step is NONE and its flags and latch actions are clear. The Alert Poster is to
scan for what it owes. The ALERT line and the word on DATA are kept, and MDIR is turned to receive; so are the HELD and
EMPTY counts, when the slots of the contexts are RELEASING or RELATCHING. During the clearing the SOFT RESET bit is
ignored and the enables are taken. That the fob-read attempts are kept is the model's reading (log entry 27), and so are
MDIR (log entry 8) and DATA (log entry 7). -/
def Obligations.SoftResetEvent : Prop :=
  (∀ (s : State) (d : Half) (w : Nat), s.phase = .clearing w → exec (.softReset d) s = .next { s with
    port := { s.port with
      doneEnable := d.getLsbD 0
      shelfEnable := d.getLsbD 1
      int := s.port.doneSummary != 0 && d.getLsbD 0 || s.port.shelfNews && d.getLsbD 1 } }) ∧
  ∀ s d, s.phase ≠ .inReset → (∀ w, s.phase ≠ .clearing w) → d.getLsbD 2 = true →
    ∃ t, exec (.softReset d) s = .next t ∧ t.phase = .softReset ∧
      (∀ m, t.modEntry m = { s.modEntry m with state := .unknown, rounds := 0, surveying := false, expected := none }) ∧
      (t.mlc.queue = [] ∧ t.mlc.waiting = [] ∧ t.mlc.transaction = none ∧ t.mlc.round = none ∧ t.mlc.survey = none ∧
        t.mlc.identNext = 0 ∧ t.mlc.seq = s.mlc.seq ∧ t.mlc.roundTimer = .stopped) ∧
      (∀ c, t.ctx c = none) ∧ (∀ m, t.waitList m = []) ∧
      (t.release.reservations = 0 ∧ t.release.roundEnds = 0 ∧ t.release.waitingCount = 0) ∧
      t.board = { lastTaken := 31, intake := [], scan := none, scanOwed := false, execution := none } ∧
      t.walker = { s.walker with walk := none, slotRequests := [], orderRequest := none } ∧
      t.loans = { s.loans with due := [], overdue := 0, pass := none, held := false, rebuild := some 0 } ∧
      (t.port.ready = false ∧ t.port.survey = false ∧ t.port.writeRefused = false ∧ t.port.shelfNews = false ∧
        t.port.doneEnable = d.getLsbD 0 ∧ t.port.shelfEnable = d.getLsbD 1 ∧ t.port.alert = s.port.alert ∧
        t.port.data = s.port.data ∧ t.mlc.mdirSend = false) ∧
      ((∀ c y, s.ctx c = some y → y.key ≠ none → (s.slot y.slot).state ∈ [SlotState.releasing, .relatching]) →
        t.heldSlots = s.heldSlots ∧ t.emptySlots = s.emptySlots) ∧
      t.counters = s.counters ∧ t.params = s.params ∧ t.intOk ∧
      (t.poster.deferred = true ∧ t.poster.noted = false ∧
        t.poster.scan = if ∃ e : EntryIx, s.byte (entryBase e) = 0 then some (.module 0) else none) ∧
      (∀ c, s.cellByte c 0 = 2 → t.holdsResult c .reset 0 0xFFFF ∧
        ∀ n, n < 64 → n ≠ 0 → n ∉ [4, 5, 6, 7] → t.cellByte c n = s.cellByte c n) ∧
      (∀ c, s.cellByte c 0 ≠ 2 → t.port.doneSummary.getLsbD c.val = s.port.doneSummary.getLsbD c.val ∧
        ∀ n, n < 64 → t.cellByte c n = s.cellByte c n) ∧
      (∀ k, t.chip k = { step := .none, readOut := false, runReported := false, latchOut := none, latchOwed := none,
                         reissued := false }) ∧
      (∀ c y i, s.ctx c = some y → y.key = some i → t.key i = { s.key i with state := .check } ∧
        ((s.slot y.slot).state = .releasing ∨ (s.slot y.slot).state = .relatching →
          t.slot y.slot = { s.slot y.slot with state := .unverified, lamp := .off, history := 0 })) ∧
      (∀ k, (∀ c y, s.ctx c = some y → y.key ≠ none → y.slot ≠ k) → t.slot k = { s.slot k with history := 0 }) ∧
      (∀ i, (∀ c y, s.ctx c = some y → y.key ≠ some i) → t.key i = s.key i) ∧
      ∀ x, inBlock 0x0800 0x0400 x ∨ inBlock 0x3000 0x0800 x → t.byte x = s.byte x

/-! ## The host port -/

/-- The guard of the Order Board, by the state of the cell: accepted writes change the enabled bytes alone, a freed DONE
cell loses its DONE SUMMARY bit, every other bit is as before and INT follows, and a refused write changes WRITE REFUSED
alone. A cell left FREE is not taken when it is next examined. -/
def Obligations.CellWriteGuard : Prop :=
  ∀ (s : State) (addr : BitVec 15) (data : Half) (bel beh : Bool) (c : CellIx) (n : Nat),
    s.phase ≠ .inReset → (∀ w, s.phase ≠ .clearing w) → (bel = true ∨ beh = true) → n < 64 →
    2 * addr.toNat = cellBase c + n →
    let low : Byte := data.extractLsb' 0 8
    let st := s.cellByte c 0
    let accepted := st = 0 ∧ (n = 0 → bel = true → low = 1) ∨ st = 1 ∧ (n = 0 → bel = true → low = 0 ∨ low = 1) ∨
      st = 3 ∧ n = 0 ∧ bel = true ∧ beh = false ∧ low = 0
    ∃ t, exec (.hostCellWrite addr data bel beh) s = .next t ∧
      (accepted →
        (bel = true → t.byte (2 * addr.toNat) = low) ∧
        (beh = true → t.byte (2 * addr.toNat + 1) = data.extractLsb' 8 8) ∧
        (∀ x, (x = 2 * addr.toNat → bel = false) → (x = 2 * addr.toNat + 1 → beh = false) → t.byte x = s.byte x) ∧
        (∀ j : CellIx, t.port.doneSummary.getLsbD j.val = (s.port.doneSummary.getLsbD j.val && !(st == 3 && j == c))) ∧
        (st = 3 → t.intOk) ∧ (st ≠ 3 → t.port = s.port) ∧
        t = { s with store := t.store
                     port := { s.port with doneSummary := t.port.doneSummary, int := t.port.int } }) ∧
      (¬ accepted → t = { s with port := { s.port with writeRefused := true } }) ∧
      (∀ b, s.quiet → s.board.intake = [] → s.board.scan = some b → b.cell = c → t.cellByte c 0 = 0 →
        ∃ u, exec .scanExamination t = .next u ∧ u.store = t.store ∧ u.board.intake = [] ∧
          u.board.lastTaken = t.board.lastTaken)

/-- The guard of the Alert Shelf: the state byte of a POSTED entry alone, value 0, frees the entry, re-evaluates ALERT,
and starts a deferred scan when one is owed and none runs; every other write is refused. -/
def Obligations.ShelfWriteGuard : Prop :=
  ∀ (s : State) (addr : BitVec 15) (data : Half) (bel beh : Bool) (e : EntryIx) (n : Nat),
    s.phase ≠ .inReset → (∀ w, s.phase ≠ .clearing w) → (bel = true ∨ beh = true) → n < 32 →
    2 * addr.toNat = entryBase e + n →
    let accepted := n = 0 ∧ bel = true ∧ beh = false ∧ data.extractLsb' 0 8 = (0 : Byte) ∧ s.byte (entryBase e) = 1
    ∃ t, exec (.hostShelfWrite addr data bel beh) s = .next t ∧
      (accepted →
        t.byte (entryBase e) = 0 ∧ (∀ x, x ≠ entryBase e → t.byte x = s.byte x) ∧
        (t.port.alert = true ↔ ∃ j : EntryIx, t.byte (entryBase j) = 1 ∧
          s.params.lineUrgency ≤ (t.byte (entryBase j + 2)).toNat) ∧
        t.poster = (if s.poster.deferred = true ∧ s.poster.scan = none then
          { s.poster with scan := some (.module 0), noted := false } else s.poster) ∧
        t = { s with store := t.store, port := { s.port with alert := t.port.alert }, poster := t.poster }) ∧
      (¬ accepted → t = { s with port := { s.port with writeRefused := true } })

/-- A host write to the Slot Map, the Home Table or the Record Pool is refused, and so is every store write during the
clearing; a refused write changes WRITE REFUSED alone. A write that enables neither lane changes nothing. From the end
of RESET a host read puts the word's two bytes as they stand on DATA, the even byte in the low lane, and changes nothing
else. That no read is served during RESET is the model's (log entry 6), and so is that a write with neither lane is not
refused during the clearing (log entry 38). That no read is served during RESET is the model's (log entry 6). -/
def Obligations.StoreAccess : Prop :=
  ((∀ (s : State) (addr : BitVec 15) (data : Half) (bel beh : Bool), s.phase ≠ .inReset → (bel = true ∨ beh = true) →
     0x0C00 ≤ 2 * addr.toNat →
     exec (.hostGuardedAreaWrite addr data bel beh) s = .next { s with port := { s.port with writeRefused := true } }) ∧
   (∀ (s : State) (addr : BitVec 15) (data : Half) (bel beh : Bool) (w : Nat), s.phase = .clearing w →
     (bel = true ∨ beh = true) → ∀ i ∈ [Instr.hostCellWrite addr data bel beh, .hostShelfWrite addr data bel beh,
       .hostGuardedAreaWrite addr data bel beh],
     exec i s = .next { s with port := { s.port with writeRefused := true } }) ∧
   (∀ (s : State) (addr : BitVec 15) (data : Half), ∀ i ∈ [Instr.hostCellWrite addr data false false,
       .hostShelfWrite addr data false false, .hostGuardedAreaWrite addr data false false],
     exec i s = .next s)) ∧
  (∀ (s : State) (addr : BitVec 15), s.phase ≠ .inReset →
     exec (.hostStoreRead addr) s =
       .next { s with port := { s.port with data := s.byte (2 * addr.toNat + 1) ++ s.byte (2 * addr.toNat) } })

/-- No register write sets WRITE REFUSED; ATTENTION reads 0; writes to DONE SUMMARY and to words 5 and above are
ignored, and words 5 and above read 0. -/
def Obligations.RegisterWritesNeverRefused : Prop :=
  (∀ (s : State) (d : Half) (w : BitVec 15), ∀ i ∈ [Instr.portStatusClear d, .attention d, .setInterruptEnables d,
      .softReset d, .registerWriteIgnored w d],
    ∃ t, exec i s = .next t ∧ (t.port.writeRefused = true → s.port.writeRefused = true)) ∧
  (∀ (s : State) (d : Half) (w : BitVec 15), w = 2 ∨ w = 3 ∨ 5 ≤ w.toNat →
    exec (.registerWriteIgnored w d) s = .next s) ∧
  (∀ s : State, s.registerWord 1 = 0 ∧ ∀ w, 5 ≤ w → s.registerWord w = 0)

/-- A write of PORT STATUS clears WRITE REFUSED and SHELF NEWS where its bits are 1, and a write of PORT CONTROL without
SOFT RESET takes the two enables; both re-evaluate INT and change nothing else. -/
def Obligations.StatusAndControlWrites : Prop :=
  ∀ (s : State) (d : Half), s.phase ≠ .inReset →
    (exec (.portStatusClear d) s = .next { s with
      port := { s.port with
        writeRefused := s.port.writeRefused && !d.getLsbD 2
        shelfNews := s.port.shelfNews && !d.getLsbD 3
        int := s.port.doneSummary != 0 && s.port.doneEnable ||
          (s.port.shelfNews && !d.getLsbD 3) && s.port.shelfEnable } }) ∧
    (d.getLsbD 2 = false → exec (.setInterruptEnables d) s = .next { s with
      port := { s.port with
        doneEnable := d.getLsbD 0
        shelfEnable := d.getLsbD 1
        int := s.port.doneSummary != 0 && d.getLsbD 0 || s.port.shelfNews && d.getLsbD 1 } })

/-! ## Scans of the board -/

/-- ATTENTION and the scan timer ask for a scan: ignored while READY is 0; with READY 1 the scan starts after the last
cell taken, or is owed once when one runs. An examination passes over a cell that is not POSTED and moves the scan on;
after the 32nd the scan ends, and an owed scan starts in the same event. An examination takes a POSTED cell: bytes 1 to
63 are copied, the cell is TAKEN, its order joins the tail of the intake queue behind an order in execution, and it is
the last taken. -/
def Obligations.BoardScans : Prop :=
  (∀ (s : State) (d : Half), s.phase ≠ .inReset → ∀ i ∈ [Instr.attention d, .scanTimerExpiry],
     (s.port.ready = false → exec i s = .next s) ∧
     (s.port.ready = true → s.board.scan = none →
       exec i s = .next { s with
         board := { s.board with scan := some { start := s.board.lastTaken + 1, examined := 0 } } }) ∧
     (s.port.ready = true → s.board.scan ≠ none →
       exec i s = .next { s with board := { s.board with scanOwed := true } })) ∧
  ((∀ (s : State) (b : BoardScan), s.quiet → s.board.scan = some b → s.cellByte b.cell 0 ≠ 1 → s.board.intake = [] →
     exec .scanExamination s = .next { s with
       board :=
         if b.examined + 1 < 32 then { s.board with scan := some { b with examined := b.examined + 1 } }
         else if s.board.scanOwed then
           { s.board with scanOwed := false, scan := some { start := s.board.lastTaken + 1, examined := 0 } }
         else { s.board with scan := none } }) ∧
   ∀ (s : State) (b : BoardScan), s.quiet → s.board.scan = some b → s.cellByte b.cell 0 = 1 → s.board.execution ≠ none →
     ∃ t o, exec .scanExamination s = .next t ∧ o.cell = b.cell ∧
       (∀ n, 1 ≤ n → n < 64 → o.byte n = s.cellByte b.cell n) ∧
       t.cellByte b.cell 0 = 2 ∧ (∀ x, x ≠ cellBase b.cell → t.byte x = s.byte x) ∧
       (t.board.intake = s.board.intake ++ [o] ∧ t.board.lastTaken = b.cell ∧ t.board.execution = s.board.execution) ∧
       t = { s with store := t.store, board := t.board })

/-! ## Orders without a walk -/

/-- PIN SLOT on a slot in range: refused for an invalid fob ID, a WITHDRAWN slot, and a slot that names a key with
another fob ID; otherwise the pin is written and nothing else of the slot changes. UNPIN SLOT clears the pin of a slot
in range, whatever its state, and ends OK. A slot number above 383 ends BAD PARAMETER. The command is the examination
that takes the cell and begins its order (log entry 4). That the index for an invalid fob ID is the slot number is the
model's choice (log entry 39). -/
def Obligations.PinOrders : Prop :=
  ((∀ (s : State) (c : CellIx), s.quiet → s.orderDue c 6 = true → s.slotChecked c (.pinSlot c)) ∧
   ∀ (s : State) (c : CellIx) (k : SlotIx), s.quiet → s.orderDue c 6 = true → half (s.cellByte c) 8 = ofIx k →
     let fob := word (s.cellByte c) 12
     let invalid := fob = 0 ∨ fob = 0xFFFFFFFF
     let withdrawn := (s.slot k).state = .withdrawn
     let occupied := ∃ i, recOf (s.slot k).key = some i ∧ (s.key i).fob ≠ fob
     ∃ t, exec (.pinSlot c) s = .next t ∧ s.orderFrame t c ∧
       (∀ x, ¬ inBlock (slotBase k) 24 x → ¬ inResult c x → t.byte x = s.byte x) ∧
       (invalid → t.holdsResult c .badParameter 0 (ofIx k) ∧ t.slot k = s.slot k) ∧
       (¬ invalid → withdrawn → t.holdsResult c .slotWithdrawn 0 (ofIx k) ∧ t.slot k = s.slot k) ∧
       (¬ invalid → ¬ withdrawn → occupied → t.holdsResult c .slotOccupied 0 (ofIx k) ∧ t.slot k = s.slot k) ∧
       (¬ invalid → ¬ withdrawn → ¬ occupied →
         t.holdsResult c .ok 0 (ofIx k) ∧ t.slot k = { s.slot k with pinned := true, pinnedFob := fob })) ∧
  (∀ (s : State) (c : CellIx), s.quiet → s.orderDue c 7 = true →
     ∃ t, exec (.unpinSlot c) s = .next t ∧ s.orderFrame t c ∧
       (∀ k : SlotIx, half (s.cellByte c) 8 = ofIx k →
         t.slot k = { s.slot k with pinned := false, pinnedFob := 0 } ∧ t.holdsResult c .ok 0 (ofIx k) ∧
         ∀ x, ¬ inBlock (slotBase k) 24 x → ¬ inResult c x → t.byte x = s.byte x) ∧
       (384 ≤ (half (s.cellByte c) 8).toNat →
         t.holdsResult c .badParameter 0 0xFFFF ∧ ∀ x, ¬ inResult c x → t.byte x = s.byte x))

/-- WITHDRAW SLOT on a slot in range: OK without change when already WITHDRAWN, SLOT OCCUPIED when the slot names a key
or its latch is not CLOSED, and otherwise the slot is WITHDRAWN with attempts, stranger fields and STRANGER mark cleared
and its lamp OFF. RESTORE SLOT on a slot in range: BAD PARAMETER when the slot is not WITHDRAWN; otherwise the slot is
EMPTY with its history, baseline, decision, attempts and stranger fields reset, and its run-reported flag is clear. A
slot number above 383 ends BAD PARAMETER. The command is the examination that takes the cell and begins its order (log
entry 4). -/
def Obligations.WithdrawalOrders : Prop :=
  ((∀ (s : State) (c : CellIx), s.quiet → s.orderDue c 8 = true → s.slotChecked c (.withdrawSlot c)) ∧
   ∀ (s : State) (c : CellIx) (k : SlotIx), s.quiet → s.orderDue c 8 = true → half (s.cellByte c) 8 = ofIx k →
     let r := s.slot k
     let occupied := r.key ≠ 0xFFFF ∨ r.latch ≠ .closed
     ∃ t, exec (.withdrawSlot c) s = .next t ∧
       (∀ x, ¬ inBlock (slotBase k) 24 x → ¬ inResult c x → t.byte x = s.byte x) ∧
       (r.state = .withdrawn → t.holdsResult c .ok 0 (ofIx k) ∧ t.slot k = r ∧ s.orderFrame t c) ∧
       (r.state ≠ .withdrawn → occupied →
         t.holdsResult c .slotOccupied 0 (ofIx k) ∧ t.slot k = r ∧ s.orderFrame t c) ∧
       (r.state ≠ .withdrawn → ¬ occupied →
         t.holdsResult c .ok 0 (ofIx k) ∧
         t.slot k = { r with state := .withdrawn, lamp := .off, attempts := 0, reason := .unknownFob, fobSeen := 0,
                             surveyFound := false, markStranger := false } ∧
         t.emptySlots = s.emptySlots - (if r.state = .empty then 1 else 0) ∧ (t.chip k).step = .none ∧
         (∀ j, j ≠ k → t.chip j = s.chip j) ∧ t.port = s.port.setDone c ∧
         t = { s with store := t.store, port := t.port, board := t.board, chips := t.chips,
                      mlc := { s.mlc with queue := t.mlc.queue, waiting := t.mlc.waiting },
                      heldSlots := t.heldSlots, emptySlots := t.emptySlots, counters := t.counters })) ∧
  ((∀ (s : State) (c : CellIx), s.quiet → s.orderDue c 9 = true → s.slotChecked c (.restoreSlot c)) ∧
   ∀ (s : State) (c : CellIx) (k : SlotIx), s.quiet → s.orderDue c 9 = true → half (s.cellByte c) 8 = ofIx k →
     let r := s.slot k
     ∃ t, exec (.restoreSlot c) s = .next t ∧
       (∀ x, ¬ inBlock (slotBase k) 24 x → ¬ inResult c x → t.byte x = s.byte x) ∧
       (r.state ≠ .withdrawn → t.holdsResult c .badParameter 0 (ofIx k) ∧ t.slot k = r ∧ s.orderFrame t c) ∧
       (r.state = .withdrawn →
         t.holdsResult c .ok 0 (ofIx k) ∧
         t.slot k = { r with state := .empty, lamp := .off, history := 0, learned := false, baseline := 0, decided := false,
                             attempts := 0, fobSeen := 0, reason := .unknownFob } ∧
         t.emptySlots = s.emptySlots + 1 ∧ t.heldSlots = s.heldSlots ∧
         t.chip k = { s.chip k with step := .none, runReported := false } ∧ (∀ j, j ≠ k → t.chip j = s.chip j) ∧
         t.port = s.port.setDone c ∧
         t = { s with store := t.store, port := t.port, board := t.board, chips := t.chips,
                      mlc := { s.mlc with queue := t.mlc.queue, waiting := t.mlc.waiting },
                      emptySlots := t.emptySlots, counters := t.counters }))

/-- SET CLOCK writes the minute count, zeroes the seconds, sets the flag, clears the held flag, and replaces any running
pass by a FULL pass at the new minute, which on an empty Due List has already ended. The command is the examination that
takes the cell and begins its order (log entry 4). -/
def Obligations.SetClockStartsFullPass : Prop :=
  ∀ (s : State) (c : CellIx), s.quiet → s.orderDue c 14 = true →
    let minute := word (s.cellByte c) 8
    ∃ t, exec (.setClock c) s = .next t ∧ t.holdsResult c .ok 0 0xFFFF ∧
      (∀ x, ¬ inResult c x → t.byte x = s.byte x) ∧ t.port = s.port.setDone c ∧
      t.loans = { s.loans with minute := minute, second := 0, clockSet := true, held := false,
                               pass := if s.loans.due = [] then none
                                       else some { minute := minute, full := true, cursor := 0 } } ∧
      t = { s with store := t.store, port := t.port, board := t.board, loans := t.loans }

/-- SET COUNTER: BAD PARAMETER and no change for an index above 7, a mode other than 0 and 1, or a quantity above 4 in
ACCUMULATE mode; otherwise the named counter takes its setting with value 0 and flag clear, and the others are
unchanged. READ COUNTERS copies the eight values and the overflow flags into the cell; with the clear-after bit every
value is then 0 and every flag clear, and modes, kind sets and masks are kept. The command is the examination that takes
the cell and begins its order (log entry 4). -/
def Obligations.CounterOrders : Prop :=
  (∀ (s : State) (c : CellIx), s.quiet → s.orderDue c 15 = true →
     let index := (s.cellByte c 8).toNat
     let mode := (s.cellByte c 9).toNat
     let kinds := half (s.cellByte c) 10
     let refused := 7 < index ∨ 1 < mode ∨ mode = 1 ∧ 4 < kinds.toNat
     ∃ t, exec (.setCounter c) s = .next t ∧ (∀ x, ¬ inResult c x → t.byte x = s.byte x) ∧ t.port = s.port.setDone c ∧
       t = { s with store := t.store, port := t.port, board := t.board, counters := t.counters } ∧
       (refused → t.holdsResult c .badParameter 0 0xFFFF ∧ t.counters = s.counters) ∧
       (¬ refused → t.holdsResult c .ok (s.cellByte c 8) 0xFFFF ∧
         ∀ j : CounterIx, t.counters[j.val] =
           if j.val = index then
             { value := 0, accumulate := decide (mode = 1), kinds := kinds, moduleMask := half (s.cellByte c) 12,
               classMask := half (s.cellByte c) 14, overflow := false }
           else s.counters[j.val])) ∧
  (∀ (s : State) (c : CellIx), s.quiet → s.orderDue c 16 = true →
     ∃ t, exec (.readCounters c) s = .next t ∧ t.holdsResult c .ok 0 0xFFFF ∧
       (∀ (j : CounterIx) (n : Nat), n < 6 →
         t.cellByte c (8 + 6 * j.val + n) = s.counters[j.val].value.extractLsb' (8 * n) 8) ∧
       (∀ j : CounterIx, (t.cellByte c 56).getLsbD j.val = s.counters[j.val].overflow) ∧
       (∀ x, ¬ inResult c x → ¬ inBlock (cellBase c + 8) 49 x → t.byte x = s.byte x) ∧ t.port = s.port.setDone c ∧
       t = { s with store := t.store, port := t.port, board := t.board, counters := t.counters } ∧
       (∀ j : CounterIx, t.counters[j.val] =
         if (s.cellByte c 8).getLsbD 0 then { s.counters[j.val] with value := 0, overflow := false } else s.counters[j.val]))

/-- SET PARAMETER for an id with a fixed range puts the value, clamped to the range, in force and reports it in bytes
16–19; no other parameter changes but OFF THRESHOLD with ON THRESHOLD and ESCALATION with GRACE. A change of WINDOW
rescales the learned baseline of every slot that is not WITHDRAWN, and discards the counts a survey holds, with one
STALE COUNTS event. LINE URGENCY evaluates ALERT. Nothing else changes. That the held reply counts among the survey's
three discards is the model's reading (log entry 17). The command is the examination that takes the cell and begins its
order (log entry 4). -/
def Obligations.SetParameterClamps : Prop :=
  ∀ (s : State) (c : CellIx) (id lo hi : Nat), s.quiet → s.orderDue c 17 = true →
    (id, lo, hi) ∈ [(2, 64, 4095), (3, 8, 2000), (5, 2, 8), (6, 1, 7), (7, 0, 2000), (8, 100, 2000), (9, 1, 20),
      (11, 3, 207), (12, 5, 120), (13, 0, 240), (15, 1, 3), (16, 1, 3)] →
    (half (s.cellByte c) 8).toNat = id →
    let v := (word (s.cellByte c) 12).toNat
    let inForce := max lo (min hi v)
    let rescales := id = 2 ∧ inForce ≠ s.params.window
    ∃ t, exec (.setParameter c) s = .next t ∧ t.holdsResult c .ok 0 0xFFFF ∧ t.params.get id = inForce ∧
      word (t.cellByte c) 16 = BitVec.ofNat 32 inForce ∧
      (∀ j, j ≠ id → (id = 3 → j ≠ 4) → (id = 13 → j ≠ 14) → t.params.get j = s.params.get j) ∧
      (id = 3 → t.params.offThreshold = min s.params.offThreshold (inForce - 1)) ∧
      (id = 13 → t.params.escalation = max s.params.escalation (inForce + 1)) ∧
      (∀ k, t.slot k =
        if rescales ∧ (s.slot k).learned = true ∧ (s.slot k).state ≠ .withdrawn then
          { s.slot k with
            baseline := BitVec.ofNat 16 (min ((s.slot k).baseline.toNat * inForce / s.params.window) 65520) }
        else s.slot k) ∧
      (∀ x, ¬ inResult c x → ¬ inBlock (cellBase c + 16) 4 x → ¬ inBlock 0x0C00 0x2400 x → t.byte x = s.byte x) ∧
      (¬ rescales ∨ (∀ u l, s.mlc.survey = some u → u.counts ≠ .held l) → t.mlc = s.mlc ∧ t.counters = s.counters) ∧
      (∀ u l, rescales → s.mlc.survey = some u → u.counts = .held l →
        s.talliedOnce t 11 (some u.module) none ∧
        t.mlc = { s.mlc with survey := some (if u.discards + 1 < 3 then
            { u with discards := u.discards + 1, counts := .awaited, stage := .measure }
          else { u with discards := u.discards + 1, counts := .givenUp, stage := .fobs }) }) ∧
      (id ≠ 16 → t.port.alert = s.port.alert) ∧
      (id = 16 → (t.port.alert = true ↔ ∃ e : EntryIx, s.byte (entryBase e) = 1 ∧
        inForce ≤ (s.byte (entryBase e + 2)).toNat)) ∧
      t = { s with store := t.store, counters := t.counters, params := t.params, mlc := t.mlc
                   port := { s.port.setDone c with alert := t.port.alert }
                   board := { s.board with lastTaken := c, scan := t.board.scan, scanOwed := t.board.scanOwed } }

/-- SET PARAMETER for OFF THRESHOLD is clamped to ON THRESHOLD − 1, for ESCALATION to GRACE + 1 to 10,080; MEASURE
GROUPS takes 1, 2 and 4 alone; each reports the value in force in bytes 16–19 and changes nothing else. HOME SPAN takes
256, 512 and 1024 alone and runs as a walk on no chain, at whose completion it is put in force when no record is in use
and refused DIRECTORY NOT EMPTY otherwise; an unknown id and a value not listed for ids 1 and 10 end BAD PARAMETER and
change nothing but the cell. The command is the examination that takes the cell and begins its order (log entry 4). That
HOME SPAN set to the value in force is refused too while records are in use is the model's choice (log entry 36). -/
def Obligations.SetParameterOthers : Prop :=
  (∀ (s : State) (c : CellIx), s.quiet → s.orderDue c 17 = true →
    let id := (half (s.cellByte c) 8).toNat
    let v := (word (s.cellByte c) 12).toNat
    let off := min (s.params.onThreshold - 1) v
    let escalation := max (s.params.grace + 1) (min 10080 v)
    ∃ t, exec (.setParameter c) s = .next t ∧
      let inForce := fun (n : Nat) (p : Params) => t.holdsResult c .ok 0 0xFFFF ∧ t.params = p ∧
        word (t.cellByte c) 16 = BitVec.ofNat 32 n ∧
        (∀ x, ¬ inResult c x → ¬ inBlock (cellBase c + 16) 4 x → t.byte x = s.byte x) ∧
        t = { s with store := t.store, params := t.params, port := s.port.setDone c
                     board := { s.board with lastTaken := c, scan := t.board.scan, scanOwed := t.board.scanOwed } }
      (id = 4 → inForce off { s.params with offThreshold := off }) ∧
      (id = 14 → inForce escalation { s.params with escalation := escalation }) ∧
      (id = 10 → (v = 1 ∨ v = 2 ∨ v = 4) → inForce v { s.params with measureGroups := v }) ∧
      (id = 1 → (v = 256 ∨ v = 512 ∨ v = 1024) → s.waitsForWalk t c 0 0 false) ∧
      (id = 0 ∨ 16 < id ∨ (id = 1 ∧ v ≠ 256 ∧ v ≠ 512 ∧ v ≠ 1024) ∨ (id = 10 ∧ v ≠ 1 ∧ v ≠ 2 ∧ v ≠ 4) →
        t.holdsResult c .badParameter 0 0xFFFF ∧ t.params = s.params ∧
        word (t.cellByte c) 16 = BitVec.ofNat 32 (s.params.get id) ∧ s.orderFrame t c ∧
        ∀ x, ¬ inResult c x → ¬ inBlock (cellBase c + 16) 4 x → t.byte x = s.byte x)) ∧
  ∀ (s : State) (e : Execution) (w : Walk), s.completing e w → e.order.kind = 17 → half e.order.byte 8 = 1 →
    let c := e.order.cell
    ∃ t, exec .walkCompletion s = .next t ∧ s.orderEnded t c ∧
      (s.walker.inUse ≠ 0 → t.holdsResult c .directoryNotEmpty 0 0xFFFF ∧ t.params = s.params) ∧
      (s.walker.inUse = 0 → t.holdsResult c .ok 0 0xFFFF ∧
        t.params = { s.params with homeSpan := (word e.order.byte 12).toNat }) ∧
      word (t.cellByte c) 16 = BitVec.ofNat 32 t.params.homeSpan ∧
      (∀ x, ¬ inResult c x → ¬ inBlock (cellBase c + 16) 4 x → t.byte x = s.byte x) ∧
      t = { s with store := t.store, port := t.port, board := t.board, walker := { s.walker with walk := none }
                   params := t.params }

/-- CANCEL HAND OUT: BAD PARAMETER for a cell index above 31, NOT CANCELLABLE when no context refers to the cell. Else,
for the context of lowest number that refers to it: WAITING, it ends CANCELLED with its key IN and its slot HELD, leaves
its wait list and gives back its reservation; OPENING, the cancel is noted, once; OPEN, it relatches and LATCH close is
asked, offered or owed; later, NOT CANCELLABLE. An accepted cancel ends OK with the
context number and the key record. The command is the examination that takes the cell and begins its order (log entry
4). -/
def Obligations.CancelHandOutOutcomes : Prop :=
  ∀ (s : State) (c : CellIx), s.quiet → s.orderDue c 11 = true →
    let index := (s.cellByte c 8).toNat
    ∃ t, exec (.cancelHandOut c) s = .next t ∧
      (31 < index → t.holdsResult c .badParameter 0 0xFFFF ∧ s.orderFrame t c) ∧
      (index ≤ 31 → (∀ (x : CtxIx) (y : Context), s.ctx x = some y → y.cell.map Fin.val ≠ some index) →
        t.holdsResult c .notCancellable 0 0xFFFF ∧ s.orderFrame t c) ∧
      (∀ (x : CtxIx) (y : Context) (cell : CellIx), cell.val = index → s.ctx x = some y → y.cell = some cell →
        (∀ x', x' < x → ∀ y', s.ctx x' = some y' → y'.cell ≠ some cell) →
        let ok := t.holdsResult c .ok (BitVec.ofNat 8 x.val) (ofIx? y.key) ∧ ∀ x', x' ≠ x → t.ctx x' = s.ctx x'
        (y.state = .relatching ∨ y.state = .closing ∨ y.state = .opening ∧ y.cancelNoted = true →
          t.holdsResult c .notCancellable 0 0xFFFF ∧ s.orderFrame t c) ∧
        (y.state = .opening → y.cancelNoted = false →
          ok ∧ (∀ z, ¬ inResult c z → t.byte z = s.byte z) ∧ t.ctx x = some { y with cancelNoted := true }) ∧
        (y.state = .opened →
          ok ∧ t.ctx x = some { y with state := .relatching, timer := false, cancelNoted := true } ∧
          (t.slot y.slot).state = .relatching ∧
          ((s.modEntry (moduleOf y.slot)).state = .online → (s.chip y.slot).latchOut = none →
            (t.slot y.slot).latch = .closing ∧ (t.chip y.slot).latchOut = some .close ∧
            (.latch y.slot .close) ∈ t.mlc.queue ++ t.mlc.waiting) ∧
          ((s.modEntry (moduleOf y.slot)).state = .online → (s.chip y.slot).latchOut ≠ none →
            (t.slot y.slot).latch = (s.slot y.slot).latch ∧ (t.chip y.slot).latchOut = (s.chip y.slot).latchOut ∧
            (t.chip y.slot).latchOwed = some .close)) ∧
        (∀ i, y.state = .waiting → y.key = some i → cell ≠ c →
          ok ∧ t.ctx x = none ∧ t.holdsResult cell .cancelled (BitVec.ofNat 8 x.val) (ofIx i) ∧
          t.key i = { s.key i with state := .resting } ∧ (t.slot y.slot).state = .held ∧ (t.slot y.slot).key = ofIx i ∧
          t.release.reservations = s.release.reservations - 1 ∧
          t.release.waitingCount = s.release.waitingCount - 1 ∧
          t.waitList (moduleOf y.slot) = (s.waitList (moduleOf y.slot)).erase x ∧
          ∀ m, m ≠ moduleOf y.slot → t.waitList m = s.waitList m))

/-! ## Orders that walk -/

/-- ENROL KEY, RETIRE KEY, ARM KEY, DISARM KEY, FIND KEY and DECLARE LOST with a valid fob ID begin by requesting their
walk of the fob's home chain. The eight orders that carry a fob ID end BAD PARAMETER with detail 0 and index 0xFFFF for
the fob IDs 0 and 0xFFFFFFFF, before any Walker request. An order whose kind is not one of 1 to 17 ends BAD KIND with
detail 0 and index 0xFFFF in the event it begins, and no other byte or block changes. The command is the examination
that takes the cell and begins its order (log entry 4). -/
def Obligations.OrdersBegin : Prop :=
  ((∀ (s : State) (c : CellIx) (i : Instr) (kind : Nat),
     (i, kind) ∈ [(Instr.enrolKey c, 1), (.retireKey c, 2), (.armKey c, 3), (.disarmKey c, 4), (.findKey c, 5),
       (.declareLost c, 12)] →
     s.quiet → s.orderDue c kind = true → word (s.cellByte c) 8 ≠ 0 → word (s.cellByte c) 8 ≠ 0xFFFFFFFF →
     ∃ t, exec i s = .next t ∧ s.waitsForWalk t c 0 (word (s.cellByte c) 8) true) ∧
   ∀ (s : State) (c : CellIx) (i : Instr) (kind : Nat),
     (i, kind) ∈ [(Instr.enrolKey c, 1), (.retireKey c, 2), (.armKey c, 3), (.disarmKey c, 4), (.findKey c, 5),
       (.handOut c, 10), (.declareLost c, 12), (.extendLoan c, 13)] →
     s.quiet → s.orderDue c kind = true → word (s.cellByte c) 8 = 0 ∨ word (s.cellByte c) 8 = 0xFFFFFFFF →
     ∃ t, exec i s = .next t ∧ t.holdsResult c .badParameter 0 0xFFFF ∧ (∀ x, ¬ inResult c x → t.byte x = s.byte x) ∧
       s.orderFrame t c) ∧
  (∀ (s : State) (c : CellIx), s.quiet → (s.cellByte c 1 = 0 ∨ 17 < (s.cellByte c 1).toNat) →
     s.orderDue c (s.cellByte c 1).toNat = true →
     ∃ t, exec (.badKind c) s = .next t ∧ t.holdsResult c .badKind 0 0xFFFF ∧
       (∀ x, ¬ inResult c x → t.byte x = s.byte x) ∧ s.orderFrame t c)

/-- HAND OUT and EXTEND LOAN with a valid fob ID end CLOCK NOT SET while the clock is not set. HAND OUT then ends BAD
DUE unless its due minute is after now and at most 525,600 minutes ahead, and DUE LIST FULL when entries and
reservations come to 1,024. Otherwise each requests its walk, HAND OUT with its removal window fixed. The command is the
examination that takes the cell and begins its order (log entry 4). -/
def Obligations.LoanOrdersBegin : Prop :=
  ∀ (s : State) (c : CellIx), s.quiet → word (s.cellByte c) 8 ≠ 0 → word (s.cellByte c) 8 ≠ 0xFFFFFFFF →
    let fob := word (s.cellByte c) 8
    (s.orderDue c 13 = true → ∃ t, exec (.extendLoan c) s = .next t ∧
      (s.loans.clockSet = false → t.holdsResult c .clockNotSet 0 0xFFFF ∧ s.orderFrame t c) ∧
      (s.loans.clockSet = true → s.waitsForWalk t c 0 fob true)) ∧
    (s.orderDue c 10 = true →
      let due := (word (s.cellByte c) 16).toNat
      let now := s.loans.minute.toNat
      let allowed := now < due ∧ due ≤ now + 525600
      let full := 1024 ≤ s.loans.due.length + s.release.reservations
      let w := (half (s.cellByte c) 20).toNat
      ∃ t, exec (.handOut c) s = .next t ∧
        (s.loans.clockSet = false → t.holdsResult c .clockNotSet 0 0xFFFF ∧ s.orderFrame t c) ∧
        (s.loans.clockSet = true → ¬ allowed → t.holdsResult c .badDue 0 0xFFFF ∧ s.orderFrame t c) ∧
        (s.loans.clockSet = true → allowed → full → t.holdsResult c .dueListFull 0 0xFFFF ∧ s.orderFrame t c) ∧
        (s.loans.clockSet = true → allowed → ¬ full →
          s.waitsForWalk t c (max 5 (min 120 (if w = 0 then s.params.removalWindow else w))) fob true))

/-- A walk step examines the record at the cursor: depth rises by 1; an in-use record with the walk's fob ID is the
match; otherwise the record is the predecessor and the cursor takes its next field. One DIRECTORY STEP event is raised.
-/
def Obligations.WalkStepExamines : Prop :=
  ∀ (s : State) (w : Walk) (i : RecIx), s.walker.walk = some w → w.found = none → recOf w.cursor = some i →
    ∃ t, exec .walkStep s = .next t ∧
      ((s.key i).state ≠ .unused → (s.key i).fob = w.fob →
        t.walker = { s.walker with walk := some { w with depth := w.depth + 1, found := some i } }) ∧
      ((s.key i).state = .unused ∨ (s.key i).fob ≠ w.fob →
        t.walker = { s.walker with
          walk := some { w with depth := w.depth + 1, pred := some i, cursor := (s.key i).next } }) ∧
      s.talliedOnce t 12 none none ∧ t = { s with walker := t.walker, counters := t.counters }

/-- At a walk's completion event the Walker grants its next request: the oldest lookup of the Slot Supervisor, else the
Order Unit's. A lookup for an invalid fob ID is answered NOT FOUND at its grant, and the grants go on: each of several
that stand at the head and whose slots still look for them makes its slot a STRANGER, and, the walk's own result
changing no slot, no other slot changes. An order that ends there lets the next of the intake queue begin in the same
event: its walk request waits behind the lookups, and an order of unknown kind ends BAD KIND at once. That a request
made inside the event waits with the others until its end is the model's reading (log entry 23), and that the grants
follow the orders is the model's choice (log entry 33). -/
def Obligations.WalkerGrantsNext : Prop :=
  ∀ (s : State) (w : Walk), s.quiet → s.walker.walk = some w → (w.found ≠ none ∨ recOf w.cursor = none) →
    let valid := fun f : Word => f ≠ 0 ∧ f ≠ 0xFFFFFFFF
    let inTable := fun f : Word => homeIndex f s.params.homeSpan < 1024
    let validHead := fun l : List SlotRequest => ∀ q ∈ l.head?, valid q.fob
    let granted := fun (q : SlotRequest) (qs : List SlotRequest) =>
      { s.walker with slotRequests := qs, walk := some (s.begunWalk (.slot q.slot) q.fob true) }
    (∀ k, w.asker = .slot k →
      let discarded := ¬ ((s.slot k).state = .identifying ∧ (s.chip k).step = .looking ∧ (s.slot k).fobSeen = w.fob)
      (∀ q qs, s.walker.slotRequests = q :: qs → valid q.fob → inTable q.fob →
        ∃ t, exec .walkCompletion s = .next t ∧ t.walker = granted q qs ∧
          (discarded → t = { s with walker := t.walker })) ∧
      (∀ r, s.walker.slotRequests = [] → s.walker.orderRequest = some r → inTable r.fob →
        ∃ t, exec .walkCompletion s = .next t ∧
          t.walker = { s.walker with orderRequest := none, walk := some (s.begunWalk .order r.fob r.chain) } ∧
          (discarded → t = { s with walker := t.walker })) ∧
      (∀ l rest, s.walker.slotRequests = l ++ rest → l ≠ [] → s.answeredAtGrant l → validHead rest → discarded →
        ∃ t, exec .walkCompletion s = .next t ∧ s.strangersOf t l ∧
          (∀ q e, l = [q] → s.lowestFree e → s.mlc.queue.length < 32 →
            s.talliedOnce t 8 (some (moduleOf q.slot)) none) ∧
          (rest = [] → s.walker.orderRequest = none →
            t.walker = { s.walker with slotRequests := [], walk := none }) ∧
          (∀ r, rest = [] → s.walker.orderRequest = some r → t.walker = { s.walker with
            slotRequests := [], orderRequest := none, walk := some (s.begunWalk .order r.fob r.chain) }) ∧
          ∀ p ps, rest = p :: ps → t.walker = granted p ps)) ∧
    (∀ e, w.asker = .order → s.board.execution = some e → w.found = none → e.order.kind ∈ [2, 3, 4, 5, 10, 12, 13] →
      let c := e.order.cell
      let ends := fun t : State => t.holdsResult c .noSuchFob w.reported 0xFFFF ∧
        t = { s with store := t.store, port := t.port, board := t.board, walker := t.walker }
      let alone := fun t : State => t.port = s.port.setDone c ∧ ∀ x, ¬ inResult c x → t.byte x = s.byte x
      (∀ q qs, s.board.intake = [] → s.walker.slotRequests = q :: qs → valid q.fob →
        ∃ t, exec .walkCompletion s = .next t ∧ ends t ∧ alone t ∧ t.board = { s.board with execution := none } ∧
          t.walker = granted q qs) ∧
      (∀ o os, s.board.intake = o :: os → o.kind ∈ [1, 2, 3, 4, 5, 12] → valid o.fob →
        validHead s.walker.slotRequests →
        ∃ t, exec .walkCompletion s = .next t ∧ ends t ∧ alone t ∧
          t.board = { s.board with execution := some { order := o, window := 0 }, intake := os } ∧
          (s.walker.slotRequests = [] → t.walker = { s.walker with
            orderRequest := none, walk := some (s.begunWalk .order o.fob true) }) ∧
          (∀ q qs, s.walker.slotRequests = q :: qs →
            t.walker = { granted q qs with orderRequest := some { fob := o.fob, chain := true } })) ∧
      (∀ o os l rest, s.board.intake = o :: os → o.kind ∈ [1, 2, 3, 4, 5, 12] → valid o.fob →
        s.walker.slotRequests = l ++ rest → l ≠ [] → s.answeredAtGrant l → validHead rest →
        ∃ t, exec .walkCompletion s = .next t ∧ t.holdsResult c .noSuchFob w.reported 0xFFFF ∧ s.strangersOf t l ∧
          t.board = { s.board with execution := some { order := o, window := 0 }, intake := os } ∧
          (rest = [] → t.walker = { s.walker with
            slotRequests := [], orderRequest := none, walk := some (s.begunWalk .order o.fob true) }) ∧
          ∀ q qs, rest = q :: qs →
            t.walker = { granted q qs with orderRequest := some { fob := o.fob, chain := true } }) ∧
      (∀ o, s.board.intake = [o] → o.kind = 0 ∨ 17 < o.kind → o.cell ≠ c → s.walker.slotRequests = [] →
        s.walker.orderRequest = none →
        ∃ t, exec .walkCompletion s = .next t ∧ ends t ∧ t.holdsResult o.cell .badKind 0 0xFFFF ∧
          t.board = { s.board with execution := none, intake := [] } ∧ t.walker = { s.walker with walk := none } ∧
          ∀ x, ¬ inResult c x → ¬ inResult o.cell x → t.byte x = s.byte x))

/-- The seven orders that look a fob up end NO SUCH FOB with the depth, index 0xFFFF and no other effect when their walk
found no record. FIND KEY copies the 32 bytes of the record found into cell bytes 8 to 39; ARM KEY sets and DISARM KEY
clears ARMED in it. Each ends OK with the depth and the record's index. -/
def Obligations.LookupOrdersComplete : Prop :=
  (∀ (s : State) (e : Execution) (w : Walk), s.completing e w → w.found = none →
    e.order.kind ∈ [2, 3, 4, 5, 10, 12, 13] →
    ∃ t, exec .walkCompletion s = .next t ∧ t.holdsResult e.order.cell .noSuchFob w.reported 0xFFFF ∧
      s.orderRefused t e.order.cell) ∧
  ∀ (s : State) (e : Execution) (w : Walk) (i : RecIx), s.completing e w → w.found = some i →
    let c := e.order.cell
    (e.order.kind = 5 → ∃ t, exec .walkCompletion s = .next t ∧ t.holdsResult c .ok w.reported (ofIx i) ∧
      (∀ n, n < 32 → t.cellByte c (8 + n) = s.byte (keyBase i + n)) ∧
      (∀ x, ¬ inResult c x → ¬ inBlock (cellBase c + 8) 32 x → t.byte x = s.byte x) ∧ s.orderEnded t c ∧
      t = { s with store := t.store, port := t.port, board := t.board, walker := { s.walker with walk := none } }) ∧
    (e.order.kind = 3 ∨ e.order.kind = 4 → ∃ t, exec .walkCompletion s = .next t ∧
      t.holdsResult c .ok w.reported (ofIx i) ∧ t.key i = { s.key i with armed := decide (e.order.kind = 3) } ∧
      (∀ x, ¬ inResult c x → ¬ inBlock (keyBase i) 32 x → t.byte x = s.byte x) ∧ s.orderEnded t c ∧
      t = { s with store := t.store, port := t.port, board := t.board, walker := { s.walker with walk := none } })

/-- RETIRE KEY of an AWAITED, MISSING or LOST record ends OK: the record is unlinked from the chain, becomes an unused
record at the head of the spare chain, and the counts follow. In every other in-use state it ends KEY BUSY with the
depth and no effect; the index it then writes is left open (log entry 30). -/
def Obligations.RetireKeyCompletes : Prop :=
  ∀ (s : State) (e : Execution) (w : Walk) (i : RecIx), s.completing e w → w.found = some i → e.order.kind = 2 →
    w.pred ≠ some i → w.home < 1024 →
    let c := e.order.cell
    let st := (s.key i).state
    ∃ t, exec .walkCompletion s = .next t ∧ s.orderEnded t c ∧
      (st = .awaited ∨ st = .missing ∨ st = .lost →
        t.holdsResult c .ok w.reported (ofIx i) ∧
        t.walker = { s.walker with walk := none, spareHead := ofIx i, inUse := s.walker.inUse - 1,
                                   spare := s.walker.spare + 1 } ∧
        t.key i = { state := .unused, armed := false, keyBack := false, forcedRemoval := false, keyUnaccounted := false,
                    returnedLate := false, cls := 0, level := 0, announced := 0, next := s.walker.spareHead,
                    slot := 0xFFFF, fob := 0, vehicle := 0, agreement := 0, handOut := 0, due := 0, lateness := 0,
                    closedLoans := 0 } ∧
        (w.pred = none → t.home w.home = (s.key i).next ∧
          ∀ x, ¬ inResult c x → ¬ inBlock (keyBase i) 32 x → ¬ inBlock (homeBase w.home) 2 x → t.byte x = s.byte x) ∧
        (∀ p, w.pred = some p → t.key p = { s.key p with next := (s.key i).next } ∧
          ∀ x, ¬ inResult c x → ¬ inBlock (keyBase i) 32 x → ¬ inBlock (keyBase p) 32 x → t.byte x = s.byte x)) ∧
      (¬ (st = .awaited ∨ st = .missing ∨ st = .lost) →
        (∃ x, t.holdsResult c .keyBusy w.reported x) ∧ s.orderRefused t c)

/-- ENROL KEY: DUPLICATE FOB for a fob found, DIRECTORY FULL without a spare record, DUE LIST FULL with a loan part and
no room. Otherwise the head of the spare chain becomes a record with the order's parameters, linked at the tail of its
home chain. With a loan part it is OUT with the loan as given, its entry joins the Due List, behind or ahead of a
running pass's cursor, and the order ends OK with detail 2. Without one it is AWAITED, detail 0, when no STRANGER slot
shows its fob; else it is IN the lowest such slot, which becomes HELD, detail 1; a slot pinned to another fob gets its
WRONG SLOT alert, posted or deferred. The result data is that slot or 0xFFFF. -/
def Obligations.EnrolKeyCompletes : Prop :=
  ∀ (s : State) (e : Execution) (w : Walk), s.completing e w → e.order.kind = 1 → w.home < 1024 →
    let c := e.order.cell
    let o := e.order
    let loan := (o.byte 17).getLsbD 1
    let full := 1024 ≤ s.loans.due.length + s.release.reservations
    ∃ t, exec .walkCompletion s = .next t ∧
      (∀ j, w.found = some j → t.holdsResult c .duplicateFob w.reported (ofIx j) ∧ s.orderRefused t c) ∧
      (w.found = none → s.walker.spare = 0 →
        t.holdsResult c .directoryFull 0 0xFFFF ∧ s.orderRefused t c) ∧
      (∀ i, w.found = none → s.walker.spare ≠ 0 → s.walker.spareHead = ofIx i → w.pred ≠ some i →
        (loan = true → full → t.holdsResult c .dueListFull 0 0xFFFF ∧ s.orderRefused t c) ∧
        (loan = false ∨ ¬ full →
          let record : KeyRec :=
            { state := .awaited, armed := (o.byte 17).getLsbD 0, keyBack := false, forcedRemoval := false,
              keyUnaccounted := false, returnedLate := false, cls := BitVec.ofNat 8 (min (o.byte 16).toNat 15),
              level := 0, announced := 0, next := 0xFFFF, slot := 0xFFFF, fob := o.fob, vehicle := word o.byte 12,
              agreement := 0, handOut := 0, due := 0, lateness := 0, closedLoans := 0 }
          let stranger := fun k : SlotIx => (s.slot k).state = .stranger ∧ (s.slot k).fobSeen = o.fob
          let ok := fun (detail : Byte) (slot : Half) =>
            t.holdsResult c .ok detail (ofIx i) ∧ half (t.cellByte c) 8 = slot
          t.board = { s.board with execution := none } ∧
          t.walker = { s.walker with walk := none, spareHead := (s.key i).next, inUse := s.walker.inUse + 1,
                                     spare := s.walker.spare - 1 } ∧
          (w.pred = none → t.home w.home = ofIx i) ∧
          (∀ p, w.pred = some p → t.key p = { s.key p with next := ofIx i }) ∧
          (loan = true → ok 2 0xFFFF ∧
            t.key i = { record with state := .out, agreement := word o.byte 20, handOut := word o.byte 24,
                                    due := word o.byte 28 } ∧
            s.dueJoined t i (word o.byte 28)) ∧
          (loan = false → t.loans = s.loans) ∧
          (loan = false → (∀ k, ¬ stranger k) → ok 0 0xFFFF ∧ t.key i = record) ∧
          (loan = true ∨ (∀ k, ¬ stranger k) → ∀ x, ¬ inResult c x → ¬ inBlock (cellBase c + 8) 2 x →
            ¬ inBlock (keyBase i) 32 x → (w.pred = none → ¬ inBlock (homeBase w.home) 2 x) →
            (∀ p, w.pred = some p → ¬ inBlock (keyBase p) 32 x) → t.byte x = s.byte x) ∧
          (loan = true ∨ (∀ k, ¬ stranger k) → s.orderEnded t c ∧ t = { s with
            store := t.store, port := t.port, board := t.board, walker := t.walker
            loans := { s.loans with due := t.loans.due, pass := t.loans.pass } }) ∧
          (∀ k, loan = false → stranger k → (∀ k', k' < k → ¬ stranger k') →
            (s.slot k).pinned = false ∨ (s.slot k).pinnedFob = o.fob →
            ok 1 (ofIx k) ∧ s.orderEnded t c ∧ t.key i = { record with state := .resting, slot := ofIx k } ∧
            t.slot k = { s.slot k with state := .held, lamp := .off, key := ofIx i, reason := .unknownFob,
                                       surveyFound := false, markStranger := false } ∧
            t.heldSlots = s.heldSlots + 1 ∧ ∀ k', k' ≠ k → t.slot k' = s.slot k') ∧
          (∀ k, loan = false → stranger k → (∀ k', k' < k → ¬ stranger k') → (s.slot k).pinned = true →
            (s.slot k).pinnedFob ≠ o.fob →
            let held := { s.slot k with state := .held, lamp := .off, key := ofIx i, reason := .unknownFob,
                                        surveyFound := false, markStranger := false }
            ok 1 (ofIx k) ∧ t.key i = { record with state := .resting, slot := ofIx k } ∧
            t.heldSlots = s.heldSlots + 1 ∧ (∀ k', k' ≠ k → t.slot k' = s.slot k') ∧
            (∀ a, s.lowestFree a → t.slot k = { held with markWrongSlot := false } ∧
              t.showsAlert a 9 1 0 (ofIx k) (ofIx i) (ofIx (moduleOf k)) ∧ t.showsFob a record) ∧
            ((∀ a : EntryIx, s.byte (entryBase a) ≠ 0) → t.slot k = { held with markWrongSlot := true } ∧
              s.hasDeferred t ∧
              (s.mlc.queue.length < 32 → s.talliedOnce t 14 (some (moduleOf k)) (some record.cls))))))

/-- The refusals of HAND OUT's lookup, first check that fails: KEY BUSY unless the record is IN or CHECK, NOT VERIFIED
for CHECK, NOT ARMED, MODULE LOST, CABINET BUSY; each with the depth and the record's index, and no other effect. -/
def Obligations.HandOutRefusals : Prop :=
  ∀ (s : State) (e : Execution) (w : Walk) (i : RecIx), s.completing e w → e.order.kind = 10 → w.found = some i →
    let c := e.order.cell
    let r := s.key i
    let offline := ∀ k, slotOf r.slot = some k → (s.modEntry (moduleOf k)).state ≠ .online
    let busy := ∀ x, s.ctx x ≠ none
    ∃ t, exec .walkCompletion s = .next t ∧
      let refused := fun code => t.holdsResult c code w.reported (ofIx i) ∧ s.orderRefused t c
      (r.state ≠ .resting → r.state ≠ .check → refused .keyBusy) ∧
      (r.state = .check → refused .notVerified) ∧
      (r.state = .resting → r.armed = false → refused .notArmed) ∧
      (r.state = .resting → r.armed = true → offline → refused .moduleLost) ∧
      (r.state = .resting → r.armed = true → ¬ offline → busy → refused .cabinetBusy)

/-- HAND OUT is accepted when its checks pass: record and slot RELEASING, the lowest free context filled, a place
reserved, one HANDOUT ACCEPTED event. With fewer than two latches of the module not CLOSED and nobody waiting, the
context is OPENING and LATCH open is offered; otherwise it joins the tail of the module's wait list with one LATCH WAIT
event. -/
def Obligations.HandOutAccepted : Prop :=
  ∀ (s : State) (e : Execution) (w : Walk) (i : RecIx) (k : SlotIx) (x : CtxIx), s.completing e w → e.order.kind = 10 →
    w.found = some i → (s.key i).state = .resting → (s.key i).armed = true → (s.key i).slot = ofIx k →
    (s.modEntry (moduleOf k)).state = .online → s.ctx x = none → (∀ x', x' < x → s.ctx x' ≠ none) →
    (s.slot k).state = .held → (s.slot k).lamp = .off → (s.slot k).latch ≠ .opened →
    let m := moduleOf k
    let cls := some (s.key i).cls
    let y : Context := { state := .opening, cell := some e.order.cell, key := some i, slot := k,
                         agreement := word e.order.byte 12, due := word e.order.byte 16, window := e.window,
                         cancelNoted := false, removalDecided := false, timer := false, settle := none }
    let room := s.latchCount m < 2 ∧ s.waitList m = []
    ∃ t, exec .walkCompletion s = .next t ∧ t.key i = { s.key i with state := .releasing } ∧
      t.release.reservations = s.release.reservations + 1 ∧ t.heldSlots = s.heldSlots - 1 ∧
      (∀ x', x' ≠ x → t.ctx x' = s.ctx x') ∧
      (∀ a, ¬ inBlock (keyBase i) 32 a → ¬ inBlock (slotBase k) 24 a → t.byte a = s.byte a) ∧
      (room → (s.chip k).latchOut = none → s.mlc.queue.length < 32 →
        t.ctx x = some y ∧ t.slot k = { s.slot k with state := .releasing, latch := .opening } ∧
        t.mlc = { s.mlc with queue := s.mlc.queue ++ [.latch k .open_] } ∧ (t.chip k).latchOut = some .open_ ∧
        (∀ j, t.waitList j = s.waitList j) ∧ s.talliedOnce t 0 (some m) cls) ∧
      (¬ room →
        t.ctx x = some { y with state := .waiting } ∧ t.slot k = { s.slot k with state := .releasing } ∧
        t.waitList m = s.waitList m ++ [x] ∧ (∀ j, j ≠ m → t.waitList j = s.waitList j) ∧
        t.release.waitingCount = s.release.waitingCount + 1 ∧ t.mlc = s.mlc ∧
        ∃ u : State, s.talliedOnce u 0 (some m) cls ∧ u.talliedOnce t 13 (some m) cls) ∧
      t = { s with store := t.store, chips := t.chips, mlc := t.mlc, heldSlots := t.heldSlots, release := t.release,
                   counters := t.counters, board := { s.board with execution := none },
                   walker := { s.walker with walk := none } }

/-- DECLARE LOST: an OUT record is LOST with levels 0 and its Due List entry removed, a MISSING one LOST, a CHECK one
LOST with the mutual reference of record and slot dropped; in any other state KEY BUSY. EXTEND LOAN of an OUT record
with an allowed due minute moves its entry to its new place and sets the due minute and levels 0; else KEY BUSY or BAD
DUE. A running pass's cursor keeps its next entry; where it stands once the entry last visited has left the list is the
model's choice (log entry 12). -/
def Obligations.DeclareLostAndExtendComplete : Prop :=
  ∀ (s : State) (e : Execution) (w : Walk) (i : RecIx), s.completing e w → w.found = some i →
    let c := e.order.cell
    let r := s.key i
    let ok := fun t : State => t.holdsResult c .ok w.reported (ofIx i) ∧ s.orderEnded t c ∧
      t = { s with store := t.store, port := t.port, board := t.board, walker := { s.walker with walk := none },
                   loans := { s.loans with due := t.loans.due, overdue := t.loans.overdue, pass := t.loans.pass } }
    let refused := fun (t : State) code => t.holdsResult c code w.reported (ofIx i) ∧ s.orderRefused t c
    let keyOnly := fun t : State => ∀ x, ¬ inResult c x → ¬ inBlock (keyBase i) 32 x → t.byte x = s.byte x
    let listed := fun l1 l2 : List DueEntry =>
      (∃ d, s.loans.due = l1 ++ { key := i, due := d } :: l2) ∧ ∀ x ∈ l1, x.key ≠ i
    (e.order.kind = 12 → ∃ t, exec .walkCompletion s = .next t ∧
      (r.state = .out → ok t ∧ keyOnly t ∧ t.key i = { r with state := .lost, level := 0, announced := 0 } ∧
        s.dueLeft t i) ∧
      (r.state = .missing → ok t ∧ keyOnly t ∧ t.key i = { r with state := .lost } ∧ t.loans = s.loans) ∧
      (∀ k, r.state = .check → r.slot = ofIx k → ok t ∧ t.key i = { r with state := .lost, slot := 0xFFFF } ∧
        t.slot k = { s.slot k with key := 0xFFFF } ∧ t.loans = s.loans ∧
        ∀ x, ¬ inResult c x → ¬ inBlock (keyBase i) 32 x → ¬ inBlock (slotBase k) 24 x → t.byte x = s.byte x) ∧
      (r.state ≠ .out → r.state ≠ .missing → r.state ≠ .check → refused t .keyBusy)) ∧
    (e.order.kind = 13 →
      let due := word e.order.byte 12
      let allowed := s.loans.minute.toNat < due.toNat ∧ due.toNat ≤ s.loans.minute.toNat + 525600
      ∃ t, exec .walkCompletion s = .next t ∧
        (r.state ≠ .out → refused t .keyBusy) ∧
        (r.state = .out → ¬ allowed → refused t .badDue) ∧
        (r.state = .out → allowed → ok t ∧ keyOnly t ∧ t.key i = { r with due := due, level := 0, announced := 0 } ∧
          ∀ l1 l2 m1 m2, listed l1 l2 → l1 ++ l2 = m1 ++ m2 → (∀ x ∈ m1, x.due.toNat ≤ due.toNat) →
            (∀ x ∈ m2.head?, due.toNat < x.due.toNat) →
            t.loans = { s.loans with
              due := m1 ++ { key := i, due := due } :: m2
              overdue := s.loans.overdue - (if 2 ≤ r.level.toNat then 1 else 0)
              pass := s.loans.pass.map (fun p => Pass.afterInsertion m1.length (Pass.afterRemoval l1.length p)) }))

/-! ## Returns -/

/-- A lookup for a slot is applied when the slot is IDENTIFYING with step LOOKING for the walk's fob ID, and otherwise
discarded whole. An AWAITED key comes to rest: record IN, slot HELD, naming each other. So does an OUT key, whose loan
closes with its lateness, its count and RETURN ON TIME or RETURN LATE. An unknown fob makes the slot a STRANGER, whose
alert goes to the lowest FREE shelf entry, or is deferred on a full shelf, except in a survey-found slot. Where a
running pass's cursor stands once the entry last visited has left the Due List is the model's choice (log entry 12). -/
def Obligations.LookupApplied : Prop :=
  ∀ (s : State) (w : Walk) (k : SlotIx), s.quiet → s.walker.walk = some w → w.asker = .slot k →
    (w.found ≠ none ∨ recOf w.cursor = none) → s.walker.slotRequests = [] → s.walker.orderRequest = none →
    let r := s.slot k
    let m := moduleOf k
    let applies := r.state = .identifying ∧ (s.chip k).step = .looking ∧ r.fobSeen = w.fob
    ∃ t, exec .walkCompletion s = .next t ∧ t.walker = { s.walker with walk := none } ∧
      (¬ applies → t = { s with walker := t.walker }) ∧
      (∀ i, applies → w.found = some i → r.lamp = .off → r.pinned = false ∨ r.pinnedFob = (s.key i).fob →
        let rests := t.slot k = { r with state := .held, key := ofIx i, reason := .unknownFob, surveyFound := false,
                                         markStranger := false } ∧
          (t.chip k).step = .none ∧ (∀ j, j ≠ k → t.chip j = s.chip j) ∧ t.heldSlots = s.heldSlots + 1 ∧
          (∀ x, ¬ inBlock (slotBase k) 24 x → ¬ inBlock (keyBase i) 32 x → t.byte x = s.byte x) ∧
          t = { s with store := t.store, walker := t.walker, chips := t.chips, heldSlots := t.heldSlots,
                       loans := { s.loans with due := t.loans.due, overdue := t.loans.overdue, pass := t.loans.pass },
                       counters := t.counters }
        ((s.key i).state = .awaited → rests ∧ t.key i = { s.key i with state := .resting, slot := ofIx k } ∧
          t.loans = s.loans ∧ t.counters = s.counters) ∧
        ((s.key i).state = .out → (s.key i).announced = 0 → rests ∧
          t.key i = { s.key i with
            state := .resting, slot := ofIx k, level := 0
            lateness := BitVec.ofNat 16 (min (s.loans.minute.toNat - (s.key i).due.toNat) 65535)
            closedLoans := BitVec.ofNat 16 (min ((s.key i).closedLoans.toNat + 1) 65535) } ∧
          s.dueLeft t i ∧
          s.talliedOnce t (if 2 ≤ (s.key i).level.toNat then 5 else 4) (some m) (some (s.key i).cls))) ∧
      (applies → w.found = none → s.mlc.queue.length < 32 →
        (r.surveyFound = true → s.talliedOnce t 8 (some m) none ∧
          t.slot k = { r with state := .stranger, key := 0xFFFF, reason := .unknownFob, lamp := .steady }) ∧
        (r.surveyFound = false → (∀ e : EntryIx, s.byte (entryBase e) ≠ 0) →
          (∃ u : State, s.talliedOnce u 8 (some m) none ∧ u.talliedOnce t 14 (some m) none) ∧
          t.poster = { s.poster with deferred := true, noted := s.poster.noted || s.poster.scan.isSome } ∧
          t.slot k = { r with state := .stranger, key := 0xFFFF, reason := .unknownFob, lamp := .steady,
                              markStranger := true }) ∧
        (∀ e : EntryIx, r.surveyFound = false → s.lowestFree e → s.talliedOnce t 8 (some m) none ∧
          t.slot k = { r with state := .stranger, key := 0xFFFF, reason := .unknownFob, lamp := .steady,
                              markStranger := false } ∧
          (t.byte (entryBase e) = 1 ∧ t.byte (entryBase e + 1) = 8 ∧ t.byte (entryBase e + 2) = 2 ∧
            t.byte (entryBase e + 3) = 0) ∧
          (half t.byte (entryBase e + 4) = ofIx k ∧ half t.byte (entryBase e + 6) = 0xFFFF ∧
            word t.byte (entryBase e + 8) = w.fob ∧ half t.byte (entryBase e + 28) = ofIx m) ∧
          t.postNoticed ∧
          ∀ x, ¬ inBlock (slotBase k) 24 x → ¬ inBlock (entryBase e) 32 x → t.byte x = s.byte x))

/-- The other rows of a lookup applied to its slot. A MISSING or LOST key comes to rest with its KEY BACK alert, a CHECK
key while the slot it named drops its reference, and an announced OUT key with its RETURNED LATE alert. A key found IN
or RELEASING makes the slot a DUPLICATE stranger and keeps its record. In a slot pinned to another fob the key that
comes to rest has its WRONG SLOT alert. Each alert goes to the lowest FREE shelf entry, or is deferred on a full shelf
with its mark set; a slot's WRONG SLOT comes before the record's KEY BACK or RETURNED LATE, so that with one FREE entry
it is posted and the record's alert deferred. Where a running pass's cursor stands once the entry last visited has left
the Due List is the model's choice (log entry 12). -/
def Obligations.LookupOtherRows : Prop :=
  ∀ (s : State) (w : Walk) (k : SlotIx) (i : RecIx), s.quiet → s.walker.walk = some w → w.asker = .slot k →
    w.found = some i → s.walker.slotRequests = [] → s.walker.orderRequest = none →
    (s.slot k).state = .identifying → (s.chip k).step = .looking → (s.slot k).fobSeen = w.fob →
    (s.slot k).lamp = .off →
    let r := s.slot k
    let y := s.key i
    let m := moduleOf k
    let unpinned := r.pinned = false ∨ r.pinnedFob = y.fob
    let held := { r with state := .held, key := ofIx i, reason := .unknownFob, surveyFound := false,
                         markStranger := false }
    let rested := { y with state := .resting, slot := ofIx k }
    let full := ∀ e : EntryIx, s.byte (entryBase e) ≠ 0
    let lateness := BitVec.ofNat 16 (min (s.loans.minute.toNat - y.due.toNat) 65535)
    let closed := { rested with level := 0, announced := 0, lateness := lateness
                                closedLoans := BitVec.ofNat 16 (min (y.closedLoans.toNat + 1) 65535) }
    let returned := if 2 ≤ y.level.toNat then 5 else 4
    ∃ t, exec .walkCompletion s = .next t ∧ t.walker = { s.walker with walk := none } ∧ (t.chip k).step = .none ∧
      let shows := fun (e : EntryIx) (kind urgency level : Byte) =>
        t.showsAlert e kind urgency level (ofIx k) (ofIx i) (ofIx m) ∧ word t.byte (entryBase e + 8) = y.fob
      let deferred := s.hasDeferred t ∧ s.talliedOnce t 14 (some m) (some y.cls)
      (unpinned → y.state = .missing ∨ y.state = .lost → t.slot k = held ∧ t.heldSlots = s.heldSlots + 1 ∧
        t.loans = s.loans ∧
        (∀ e, s.lowestFree e → t.key i = { rested with keyBack := false } ∧ shows e 5 1 0 ∧ t.counters = s.counters) ∧
        (full → t.key i = { rested with keyBack := true } ∧ deferred)) ∧
      (∀ j, unpinned → y.state = .check → y.slot = ofIx j → t.slot k = held ∧ t.key i = rested ∧
        (j ≠ k → t.slot j = { s.slot j with key := 0xFFFF }) ∧ (∀ j', j' ≠ k → j' ≠ j → t.slot j' = s.slot j') ∧
        t.loans = s.loans ∧ t.counters = s.counters ∧ t.port = s.port) ∧
      (unpinned → y.state = .out → 1 ≤ y.announced.toNat → t.slot k = held ∧
        s.dueLeft t i ∧
        (∀ e, s.lowestFree e → t.key i = { closed with returnedLate := false } ∧ shows e 4 1 0 ∧
          half t.byte (entryBase e + 30) = lateness ∧ s.talliedOnce t returned (some m) (some y.cls)) ∧
        (full → t.key i = { closed with returnedLate := true } ∧ s.hasDeferred t ∧
          ∃ u : State, s.talliedOnce u returned (some m) (some y.cls) ∧ u.talliedOnce t 14 (some m) (some y.cls))) ∧
      (y.state = .resting ∨ y.state = .releasing → t.key i = y ∧
        let stranger := { r with state := .stranger, key := 0xFFFF, reason := .duplicate, lamp := .steady }
        (∀ e, s.lowestFree e → t.slot k = { stranger with markStranger := false } ∧
          t.showsAlert e 8 2 2 (ofIx k) (ofIx i) (ofIx m) ∧ word t.byte (entryBase e + 8) = w.fob ∧
          (s.mlc.queue.length < 32 → s.talliedOnce t 8 (some m) none)) ∧
        (full → t.slot k = { stranger with markStranger := true } ∧ s.hasDeferred t ∧
          (s.mlc.queue.length < 32 →
            ∃ u : State, s.talliedOnce u 8 (some m) none ∧ u.talliedOnce t 14 (some m) (some y.cls)))) ∧
      -- in a slot pinned to another fob
      let owes := y.state = .missing ∨ y.state = .lost ∨ y.state = .out ∧ 1 ≤ y.announced.toNat
      let wrongSlot := fun mark : Bool => t.slot k = { held with markWrongSlot := mark }
      let home := fun mark : Bool => t.key i =
        if y.state = .out then { closed with returnedLate := if owes then mark else y.returnedLate }
        else { rested with keyBack := if owes then mark else y.keyBack }
      let kind : Byte := if y.state = .out then 4 else 5
      let counted := fun u : State =>
        if y.state = .out then s.talliedOnce u returned (some m) (some y.cls) else u.counters = s.counters
      let deferring := fun u v : State => u.talliedOnce v 14 (some m) (some y.cls)
      (¬ unpinned → y.state ∈ [Custody.awaited, .missing, .lost, .check, .out] → t.heldSlots = s.heldSlots + 1 ∧
        (y.state = .out → s.dueLeft t i) ∧ (y.state ≠ .out → t.loans = s.loans) ∧
        (∀ j, y.state = .check → y.slot = ofIx j → j ≠ k → t.slot j = { s.slot j with key := 0xFFFF }) ∧
        (∀ j, j ≠ k → (y.state = .check → y.slot ≠ ofIx j) → t.slot j = s.slot j)) ∧
      (¬ unpinned → y.state ∈ [Custody.awaited, .check, .out] → ¬ owes →
        (∀ e, s.lowestFree e → wrongSlot false ∧ home false ∧ shows e 9 1 0 ∧ counted t) ∧
        (full → wrongSlot true ∧ home false ∧ s.hasDeferred t ∧ ∃ u, counted u ∧ deferring u t)) ∧
      (¬ unpinned → owes →
        (∀ e e', s.lowestTwoFree e e' → wrongSlot false ∧ home false ∧ shows e 9 1 0 ∧ shows e' kind 1 0 ∧
          (y.state = .out → half t.byte (entryBase e' + 30) = lateness) ∧ counted t) ∧
        (∀ e, s.onlyFree e → wrongSlot false ∧ home true ∧ shows e 9 1 0 ∧ s.hasDeferred t ∧
          ∃ u, counted u ∧ deferring u t) ∧
        (full → wrongSlot true ∧ home true ∧ s.hasDeferred t ∧
          ∃ u v, counted u ∧ deferring u v ∧ deferring v t))

/-! ## The Module Line -/

/-- A frame sent has the request's kind and address in its first character, its data length in the second, its data, and
a check character that makes the sum of all characters 0 modulo 256. A reply with the awaited address, length, position
and sum is good whatever mark-0 characters come before it, and each of its data bytes is kept. It fails with another
check character, another kind or address, another length character, another position, a framing error in any of its
characters, or a mark 1 after its address character; without an address character it is still to come. Each request
awaits its kind plus 8 at its address, with the length of the layout table and, for READ FOB, LATCH and LAMP, its
position. -/
def Obligations.FramesAndReplies : Prop :=
  (∀ (kind addr : Nat) (data : List Byte), ∃ check, frame kind addr data =
      BitVec.ofNat 8 (16 * kind + addr) :: BitVec.ofNat 8 data.length :: (data ++ [check]) ∧
    ((frame kind addr data).foldl (fun n b => n + b.toNat) 0) % 256 = 0) ∧
  (∀ (w : Awaited) (first : RxChar) (before body : List RxChar), (∀ x ∈ before, x.mark = false) → first.mark = true →
    let chars := before ++ first :: body
    (first.stop = false ∨ first.data ≠ w.address → judge w chars = .failed) ∧
    (∀ x ∈ body.take (w.length + 2), x.stop = false ∨ x.mark = true → judge w chars = .failed) ∧
    (∀ x ∈ body.head?, x.data ≠ BitVec.ofNat 8 w.length → judge w chars = .failed) ∧
    (∀ p x, w.position = some p → 0 < w.length → w.length + 2 ≤ body.length → body[1]? = some x → x.data ≠ p →
      judge w chars = .failed) ∧
    judge w before = .incomplete) ∧
  (∀ (k : SlotIx) (a : Action) (m : ModIx) (p : PosIx),
    let reply := fun (kind : Nat) (m : ModIx) (length : Nat) (position : Option PosIx) =>
      some ({ address := BitVec.ofNat 8 (16 * kind + m.val), length := length
              position := position.map (fun p => BitVec.ofNat 8 p.val) } : Awaited)
    (Work.command (.latch k a)).awaited = reply 12 (moduleOf k) 2 (some (positionOf k)) ∧
    (Work.command (.readFob k)).awaited = reply 11 (moduleOf k) 6 (some (positionOf k)) ∧
    (Work.command (.lamp k)).awaited = reply 13 (moduleOf k) 1 (some (positionOf k)) ∧
    (Work.surveyFob m p).awaited = reply 11 m 6 (some p) ∧
    (Work.roundRead m).awaited = reply 10 m 37 none ∧ (Work.surveyRead m).awaited = reply 10 m 37 none ∧
    (Work.probe m).awaited = reply 14 m 2 none) ∧
  ∀ (w : Awaited) (data : List Byte) (check : Byte) (before : List RxChar), data.length = w.length →
    (∀ p, w.position = some p → data.head? = some p) → (∀ x ∈ before, x.mark = false) →
    let body := BitVec.ofNat 8 data.length :: data
    let chars := before ++ { data := w.address, mark := true, stop := true } ::
      (body ++ [check]).map (fun b => { data := b, mark := false, stop := true })
    let sum := w.address.toNat + (body ++ [check]).foldl (fun n b => n + b.toNat) 0
    (sum % 256 = 0 → judge w chars = .good data) ∧ (sum % 256 ≠ 0 → judge w chars = .failed)

/-- With the line free the MLC begins its next work: during the identification the probe of the next address; otherwise
the head of the queue, to whose tail the oldest pending request moves; with the queue empty the step a survey has, that
of the lowest surveying module when none is begun: its MEASURE, its READ COUNTS, or the READ FOB of the next position
that is not WITHDRAWN; with none, the step of the round: a MEASURE with the next sequence number, which every address it
names then expects, a READ COUNTS of the first module of the read list, or the probe of the first of the probe list,
whose rounds return to 0; and with no round, nothing. -/
def Obligations.LineWorkStarts : Prop :=
  ∀ s : State, s.quiet → s.mlc.transaction = none →
    let attempt := fun (w : Work) (f : List Byte) (extra : Nat) =>
      ({ work := w, frame := f, attempt := 1, phase := .sending, received := [], divider := s.params.lineDivider,
         replyMs := s.params.replyTimeout + extra } : Transaction)
    let place := fun k : SlotIx => BitVec.ofNat 8 (positionOf k).val
    (∀ m : ModIx, s.mlc.identNext = m.val → ∃ t, exec .lineWorkStart s = .next t ∧
      t.mlc.transaction = some (attempt (.probe m) (frame 6 m.val []) 0) ∧
      t.modEntry m = { s.modEntry m with rounds := 0 } ∧ (∀ j, j ≠ m → t.modEntry j = s.modEntry j) ∧
      t = { s with mlc := { s.mlc with transaction := t.mlc.transaction, mdirSend := true, modules := t.mlc.modules } }) ∧
    (∀ r rest, s.mlc.identNext = 16 → s.mlc.queue = r :: rest →
      let work := match r with
        | .latch k a => attempt (.command r) (frame 4 (moduleOf k).val [place k, if a = .open_ then 1 else 0]) 0
        | .readFob k => attempt (.command r) (frame 3 (moduleOf k).val [place k]) 30
        | .lamp k => attempt (.command r) (frame 5 (moduleOf k).val [place k, (s.slot k).lamp.code]) 0
      exec .lineWorkStart s = .next { s with
        mlc := { s.mlc with queue := rest ++ s.mlc.waiting.take 1, waiting := s.mlc.waiting.drop 1,
                            transaction := some work, mdirSend := true } }) ∧
    (s.mlc.identNext = 16 → s.mlc.queue = [] → ∀ v : Survey,
      s.mlc.survey = some v ∨ s.mlc.survey = none ∧ (s.modEntry v.module).surveying = true ∧
          (∀ j, j < v.module → (s.modEntry j).surveying = false) ∧
          v = { module := v.module, stage := .measure, counts := .awaited, discards := 0, nextPos := 0, fobs := [],
                waitUs := 0 } →
      let m := v.module
      (v.stage = .measure →
        let seq := s.mlc.seq + 1
        let data := [15, seq] ++ le16 (BitVec.ofNat 16 s.params.window)
        ∃ t, exec .lineWorkStart s = .next t ∧
          t.modEntry m = { s.modEntry m with expected := some { seq := seq, window := s.params.window } } ∧
          (∀ j, j ≠ m → t.modEntry j = s.modEntry j) ∧
          t = { s with mlc := { s.mlc with
            seq := seq
            survey := some { v with stage := .sending, waitUs := s.params.window + 1000 }
            modules := t.mlc.modules
            transaction := some (attempt (.surveyMeasure m) (frame 1 m.val data) 0)
            mdirSend := true } }) ∧
      (v.stage = .read →
        exec .lineWorkStart s = .next { s with
          mlc := { s.mlc with survey := some { v with stage := .reading }, mdirSend := true
                              transaction := some (attempt (.surveyRead m) (frame 2 m.val []) 0) } }) ∧
      (∀ p : PosIx, v.stage = .fobs → v.nextPos ≤ p.val → (s.slot (slotAt m p)).state ≠ .withdrawn →
        (∀ q : PosIx, v.nextPos ≤ q.val → q < p → (s.slot (slotAt m q)).state = .withdrawn) →
        exec .lineWorkStart s = .next { s with
          mlc := { s.mlc with
            survey := some { v with nextPos := p.val + 1 }
            transaction := some (attempt (.surveyFob m p) (frame 3 m.val [BitVec.ofNat 8 p.val]) 30)
            mdirSend := true } })) ∧
    (s.mlc.identNext = 16 → s.mlc.queue = [] →
      (s.mlc.survey = none ∧ (∀ m, (s.modEntry m).surveying = false)) ∨
        (∃ v, s.mlc.survey = some v ∧ v.stage ∈ [SurveyStage.sending, .waiting, .reading]) →
      (s.mlc.round = none → exec .lineWorkStart s = .next s) ∧
      (∀ r m rest, s.mlc.round = some r → r.stage = .reading → r.readList = m :: rest →
        exec .lineWorkStart s = .next { s with
          mlc := { s.mlc with transaction := some (attempt (.roundRead m) (frame 2 m.val []) 0), mdirSend := true } }) ∧
      (∀ r m rest, s.mlc.round = some r → r.stage = .probing → r.probeList = m :: rest →
        ∃ t, exec .lineWorkStart s = .next t ∧
          t.modEntry m = { s.modEntry m with rounds := 0 } ∧ (∀ j, j ≠ m → t.modEntry j = s.modEntry j) ∧
          t = { s with mlc := { s.mlc with transaction := some (attempt (.probe m) (frame 6 m.val []) 0), mdirSend := true
                                           modules := t.mlc.modules } }) ∧
      (∀ r, s.mlc.round = some r → r.stage = .measure →
        let seq := s.mlc.seq + 1
        let data := [BitVec.ofNat 8 (r.groups - 1), seq] ++ le16 (BitVec.ofNat 16 s.params.window)
        ∃ t, exec .lineWorkStart s = .next t ∧
          (∀ m, t.modEntry m = if (m.val ^^^ r.group) &&& (r.groups - 1) = 0 then
            { s.modEntry m with expected := some { seq := seq, window := s.params.window } } else s.modEntry m) ∧
          t = { s with mlc := { s.mlc with
            seq := seq
            round := some { r with stage := .sending, waitUs := s.params.window + 1000 }
            modules := t.mlc.modules
            transaction := some (attempt (.roundMeasure r.group (r.groups - 1)) (frame 1 r.group data) 0)
            mdirSend := true } }))

/-- The end of a request frame turns MDIR to receive: a MEASURE is over and its wait runs, any other request awaits its
reply. When the wait of a group expires its reads may begin, and so may the read of a survey. -/
def Obligations.FramesEndAndWaitsExpire : Prop :=
  (∀ (s : State) (x : Transaction), s.mlc.transaction = some x → x.phase = .sending →
    (x.work.awaited ≠ none → exec .requestFrameSent s = .next { s with
      mlc := { s.mlc with transaction := some { x with phase := .awaiting }, mdirSend := false } }) ∧
    (∀ j mask r, x.work = .roundMeasure j mask → s.mlc.round = some r → r.stage = .sending →
      exec .requestFrameSent s = .next { s with
        mlc := { s.mlc with transaction := none, mdirSend := false, round := some { r with stage := .waiting } } }) ∧
    (∀ m v, x.work = .surveyMeasure m → s.mlc.survey = some v → v.stage = .sending →
      exec .requestFrameSent s = .next { s with
        mlc := { s.mlc with transaction := none, mdirSend := false, survey := some { v with stage := .waiting } } })) ∧
  (∀ (s : State) (r : Round), s.quiet → s.mlc.round = some r → r.stage = .waiting → r.readList ≠ [] →
    exec (.waitTimerExpiry .group) s = .next { s with
      mlc := { s.mlc with round := some { r with stage := .reading } } }) ∧
  (∀ (s : State) (v : Survey), s.mlc.survey = some v → v.stage = .waiting →
    exec (.waitTimerExpiry .survey) s = .next { s with mlc := { s.mlc with survey := some { v with stage := .read } } })

/-- A first or second attempt that fails, by timeout or by a reply that breaks a condition, falls due for a retry, whose
start sends the same frame again, a LAMP frame with the lamp field as it then stands, at the line's rate and reply time
then in force, and raises one LINE RETRY event. A failed probe is not retried: a surveyed module that is UNKNOWN, at its
first probe after a soft reset, is LOST as by a third failed attempt; any other module stays as it is, in the
identification, which goes on to its next address, and in a round, which goes on with its probe list. That the event is
raised at the start of the retry is the model's (log entry 10), and so is that any characters that come count as the
awaiting attempt's reply, those of a transaction abandoned at a soft reset included (log entry 34). -/
def Obligations.FailedAttemptsRetried : Prop :=
  ∀ (s : State) (x : Transaction) (m : ModIx), s.quiet → s.mlc.transaction = some x → x.work.module = some m →
    (∀ (a : Awaited) (chars : List RxChar), x.phase = .awaiting → x.attempt < 3 → (∀ j, x.work ≠ .probe j) →
      x.work.awaited = some a → judge a (x.received ++ chars) = .failed →
      ∀ i ∈ [Instr.replyTimerExpiry, .replyFailedAttempt chars],
      exec i s = .next { s with
        mlc := { s.mlc with transaction := some { x with phase := .retryDue, received := [] } } }) ∧
    (x.phase = .retryDue →
      let frame := match x.work with
        | .command (.lamp k) => frame 5 m.val [BitVec.ofNat 8 (positionOf k).val, (s.slot k).lamp.code]
        | _ => x.frame
      let extra := match x.work with
        | .command (.readFob _) => 30
        | .surveyFob _ _ => 30
        | _ => 0
      ∃ t, exec .retryAttemptStart s = .next t ∧ s.talliedOnce t 9 (some m) none ∧
        t = { s with
          counters := t.counters
          mlc := { s.mlc with
            mdirSend := true
            transaction := some { work := x.work, frame := frame, attempt := x.attempt + 1, phase := .sending, received := [],
                                  divider := s.params.lineDivider, replyMs := s.params.replyTimeout + extra } } }) ∧
    (∀ (a : Awaited) (chars : List RxChar), x.phase = .awaiting → x.work = .probe m → x.work.awaited = some a →
      judge a (x.received ++ chars) = .failed → ∀ i ∈ [Instr.replyTimerExpiry, .replyFailedAttempt chars],
      let lost := (s.modEntry m).state = .unknown ∧ (s.modEntry m).surveyed = true
      (¬ lost → s.mlc.identNext < 15 → exec i s = .next { s with
        mlc := { s.mlc with transaction := none, identNext := s.mlc.identNext + 1 } }) ∧
      (∀ r, ¬ lost → s.mlc.identNext = 16 → s.phase = .running → s.mlc.round = some r → r.stage = .probing →
        r.probeList.erase m ≠ [] → exec i s = .next { s with
          mlc := { s.mlc with transaction := none, round := some { r with probeList := r.probeList.erase m } } }) ∧
      (∀ e, lost → s.mlc.identNext < 15 → s.lowestFree e →
        ∃ t, exec i s = .next t ∧ s.losesModule t m e (fun _ => False) ∧ t.phase = s.phase ∧
          t.mlc.identNext = s.mlc.identNext + 1) ∧
      (∀ e, lost → s.mlc.identNext = 15 → s.phase = .softReset → s.lowestFree e →
        ∃ t, exec i s = .next t ∧ t.mlc.identNext = 16 ∧ t.mlc.roundTimer = .running s.params.roundPeriod ∧
          t.modEntry m = { s.modEntry m with state := .lost, lostMark := false, rounds := 1, surveying := false,
                                             expected := none }))

/-- The third attempt that fails makes the module LOST: its entry changes, its requests leave the queue and the pending
list, and the oldest pending requests refill the queue; it leaves the read list of the round, and its survey ends. One
MODULE LOST event is raised. Each of its slots that held anything not settled is UNVERIFIED, the record a HELD,
RELEASING or RELATCHING slot names is CHECK, and no slot of another module changes. Its latch fields are kept, but for a
latch whose re-issued close is the transaction that failed, which is JAMMED (log entry 32). Its contexts end MODULE LOST
when WAITING, LINE FAILURE while they refer to their key, and silently otherwise, each with its reservation. The alert
goes to the lowest FREE shelf entry. -/
def Obligations.ModuleLossEvent : Prop :=
  ∀ (s : State) (x : Transaction) (m : ModIx) (e : EntryIx), s.quiet → s.mlc.transaction = some x → x.phase = .awaiting →
    x.attempt = 3 → x.work.module = some m → (∀ j, x.work ≠ .probe j) → s.phase = .running →
    (∀ r, s.mlc.round = some r → r.stage = .sending ∨ r.stage = .waiting ∨ r.stage = .probing ∧ r.probeList ≠ [] ∨
      r.stage ≠ .probing ∧ r.readList.erase m ≠ []) → s.lowestFree e →
    let reissued := fun k => x.work = .command (.latch k .close) ∧ (s.chip k).reissued = true
    ∃ t, exec .replyTimerExpiry s = .next t ∧ s.losesModule t m e reissued

/-- A COUNTS reply of a round is discarded whole, with one STALE COUNTS event, when its sequence is not the expected one
or its window not the one in force. A survey holds counts whose sequence and window match and goes on to its fob reads;
counts that do not match send it back to its MEASURE, with one STALE COUNTS event, or at the third discard on without
counts. The counts of positions 2i and 2i + 1 come from data bytes 3i + 1 to 3i + 3. -/
def Obligations.CountsReplyOutcomes : Prop :=
  (∀ (s : State) (x : Transaction) (a : Awaited) (chars : List RxChar) (data : List Byte), s.quiet →
    s.mlc.transaction = some x → x.phase = .awaiting → x.work.awaited = some a →
    judge a (x.received ++ chars) = .good data →
    (∀ m r rest, x.work = .roundRead m → s.mlc.round = some r → r.stage = .reading → r.readList = m :: rest → rest ≠ [] →
      (∀ e, (s.modEntry m).expected = some e → e.seq ≠ data.getD 0 0 ∨ e.window ≠ s.params.window) →
      ∃ t, exec (.countsReply chars) s = .next t ∧ s.talliedOnce t 11 (some m) none ∧
        t = { s with counters := t.counters
                     mlc := { s.mlc with transaction := none, round := some { r with readList := rest } } }) ∧
    (∀ m v, x.work = .surveyRead m → s.mlc.survey = some v → v.module = m → v.stage = .reading →
      (∃ p : PosIx, v.nextPos ≤ p.val ∧ (s.slot (slotAt m p)).state ≠ .withdrawn) →
      let fresh := (s.modEntry m).expected = some { seq := data.getD 0 0, window := s.params.window }
      (fresh → exec (.countsReply chars) s = .next { s with
        mlc := { s.mlc with transaction := none
                            survey := some { v with counts := .held (countsOf data), stage := .fobs } } }) ∧
      (¬ fresh → ∃ t, exec (.countsReply chars) s = .next t ∧ s.talliedOnce t 11 (some m) none ∧
        t = { s with
          counters := t.counters
          mlc := { s.mlc with
            transaction := none
            survey := some (if v.discards + 1 < 3 then { v with discards := v.discards + 1, stage := .measure, counts := .awaited }
              else { v with discards := v.discards + 1, stage := .fobs, counts := .givenUp }) } }))) ∧
  ∀ (data : List Byte) (i : Nat), i < 12 →
    let b := fun n => (data.getD (3 * i + n) 0).toNat
    ((countsOf data).getD (2 * i) 0).toNat = b 1 + 256 * (b 2 % 16) ∧
    ((countsOf data).getD (2 * i + 1) 0).toNat = b 2 / 16 + 16 * b 3

/-- The end of a read list. The reply of its last module takes the round to the next group with ONLINE modules that are
not surveying, else to its probe list, else to its end with one round-end notice; a probe that ends the probe list ends
the round too. When the round timer has already expired the next round starts in the same event, and otherwise the timer
runs on. That a group's read list is fixed when the round reaches the group is the model's reading (log entry 11). -/
def Obligations.RoundGoesOn : Prop :=
  ∀ (s : State) (x : Transaction) (a : Awaited) (chars : List RxChar) (data : List Byte) (m : ModIx) (r : Round),
    s.quiet → s.mlc.transaction = some x → x.phase = .awaiting → x.work.awaited = some a →
    judge a (x.received ++ chars) = .good data → s.mlc.round = some r →
    let reads := fun d : ModIx => (s.modEntry d).state = .online ∧ (s.modEntry d).surveying = false
    let absent := fun d : ModIx => (s.modEntry d).state = .unknown ∨ (s.modEntry d).state = .lost
    let notified := fun t : State =>
      t.release.roundEnds = (if s.release.roundEnds + 1 < 8 then s.release.roundEnds + 1 else 0)
    (x.work = .roundRead m → r.stage = .reading → r.readList = [m] →
      ∃ t, exec (.countsReply chars) s = .next t ∧ t.mlc.transaction = none ∧
        let kept := t.mlc.roundTimer = s.mlc.roundTimer ∧ t.mlc.modules = s.mlc.modules
        let last := ∀ j d, r.group < j → j < r.groups → d.val % r.groups = j → ¬ reads d
        (∀ j, r.group < j → j < r.groups → (∃ d, d.val % r.groups = j ∧ reads d) →
          (∀ i d, r.group < i → i < j → d.val % r.groups = i → ¬ reads d) →
          ∃ l, t.mlc.round = some { r with group := j, stage := .measure, readList := l } ∧
            (∀ d, d ∈ l ↔ d.val % r.groups = j ∧ reads d) ∧ l.Pairwise (fun p q => p.val < q.val) ∧ kept ∧
            t.release.roundEnds = s.release.roundEnds) ∧
        (last → r.probeList ≠ [] → t.mlc.round = some { r with stage := .probing, readList := [] } ∧ kept ∧
          t.release.roundEnds = s.release.roundEnds) ∧
        (last → r.probeList = [] → s.mlc.roundTimer ≠ .expired → t.mlc.round = none ∧ kept ∧ notified t) ∧
        (last → r.probeList = [] → s.mlc.roundTimer = .expired → s.params.measureGroups = 1 → (∃ d, reads d) →
          t.mlc.roundTimer = .running s.params.roundPeriod ∧ notified t ∧
          (∀ d, (absent d → t.modEntry d = { s.modEntry d with rounds := min ((s.modEntry d).rounds + 1) 8 }) ∧
            (¬ absent d → t.modEntry d = s.modEntry d)) ∧
          ∃ n, t.mlc.round = some n ∧ (n.groups = 1 ∧ n.group = 0 ∧ n.stage = .measure) ∧
            (∀ d, d ∈ n.readList ↔ reads d) ∧ (∀ d, d ∈ n.probeList ↔ absent d ∧ 7 ≤ (s.modEntry d).rounds) ∧
            n.readList.Pairwise (fun p q => p.val < q.val) ∧ n.probeList.Pairwise (fun p q => p.val < q.val))) ∧
    (x.work = .probe m → data.getD 0 0 ≠ 24 → s.mlc.identNext = 16 → s.phase = .running → r.stage = .probing →
      r.probeList = [m] → s.mlc.roundTimer ≠ .expired →
      ∃ t, exec (.identifyReply chars) s = .next t ∧ t.mlc.transaction = none ∧ t.mlc.round = none ∧
        t.mlc.roundTimer = s.mlc.roundTimer ∧ (t.modEntry m).state = .refused ∧
        (∀ d, d ≠ m → t.modEntry d = s.modEntry d) ∧ notified t)

/-- A COUNTS reply of a round that matches, count by count. Every slot takes its count; a WITHDRAWN one nothing else.
Any other takes its verdict (INVALID, ABSENT, PRESENT, or in the band the newest valid one) into its history, which the
exit from FAULT of a slot that names a key clears; a run of CONFIRM COUNT decides the presence and is reported once; the
first valid count learns the baseline, and an ABSENT count of an EMPTY slot decided ABSENT drifts it, floored and
clamped. When no count disturbs the state of its slot and no settle of the module has its last notice, each settle count
of the module falls by 1 and nothing else changes. -/
def Obligations.CountsJudged : Prop :=
  ∀ (s : State) (chars : List RxChar) (data : List Byte) (m : ModIx) (r : Round) (rest : List ModIx), s.quiet →
    s.countsArrive m chars data r rest →
    let count := fun p : PosIx => (countsOf data).getD p.val 0
    ∃ t, exec (.countsReply chars) s = .next t ∧
      (∀ p, let k := slotAt m p
        let c := count p
        let v := s.verdict k c
        let b := s.slot k
        let a := t.slot k
        let recovers := b.state = .fault ∧ s.reported k c ∧ ∃ i : RecIx, b.key = ofIx i
        let drift := (b.baseline.toNat : Int) + (16 * c.toNat - b.baseline.toNat) / (2 ^ s.params.driftShift : Nat)
        a.raw = c ∧
        (b.state = .withdrawn → a.history = b.history ∧ a.decided = b.decided ∧ a.learned = b.learned ∧
          a.baseline = b.baseline) ∧
        (b.state ≠ .withdrawn →
          (recovers → a.history = 0 ∧ (t.chip k).runReported = false) ∧
          (¬ recovers → a.history = s.historyAfter k c ∧
            ((t.chip k).runReported = true ↔ s.runReportedBefore k c ∨ s.confirmed k c)) ∧
          (s.confirmed k c → a.decided = decide (v = 2)) ∧ (¬ s.confirmed k c → a.decided = b.decided) ∧
          a.learned = (b.learned || decide (v ≠ 3)) ∧
          (b.learned = false → a.baseline = if v = 3 then b.baseline else BitVec.ofNat 16 (16 * c.toNat)) ∧
          (b.learned = true → a.baseline =
            if v = 1 ∧ b.state = .empty ∧ a.decided = false then BitVec.ofNat 16 (min drift.toNat 65520)
            else b.baseline))) ∧
      ((∀ p, s.undisturbed (slotAt m p) (count p)) →
        (∀ c y n, s.ctx c = some y → moduleOf y.slot = m → y.settle = some n → 2 ≤ n) →
        (∀ c, t.ctx c = (s.ctx c).map (fun y =>
          if moduleOf y.slot = m then { y with settle := y.settle.map (· - 1) } else y)) ∧
        (∀ k, s.onlySensed t k) ∧ (∀ k, moduleOf k ≠ m → t.slot k = s.slot k ∧ t.chip k = s.chip k) ∧
        (∀ k, t.chip k = { s.chip k with runReported := (t.chip k).runReported }) ∧
        (∀ y, y < 0x0C00 ∨ 0x3000 ≤ y → t.byte y = s.byte y) ∧
        t = { s with store := t.store, chips := t.chips
                     release := { s.release with contexts := t.release.contexts }
                     mlc := { s.mlc with transaction := none, round := some { r with readList := rest } } })

/-- Reports of a slot whose content is not in doubt, in an ONLINE module: PRESENT for an EMPTY slot makes it IDENTIFYING
with READ FOB offered unless one is outstanding; PRESENT for an IDENTIFYING, HELD or STRANGER slot changes nothing;
ABSENT for an IDENTIFYING or STRANGER slot makes it EMPTY; ABSENT for a HELD slot is a forced removal: slot EMPTY,
record MISSING, the alert posted, one event. -/
def Obligations.PresenceReports : Prop :=
  ∀ (s : State) (chars : List RxChar) (data : List Byte) (m : ModIx) (r : Round) (rest : List ModIx) (p : PosIx), s.quiet →
    s.countsArrive m chars data r rest →
    let count := fun p : PosIx => (countsOf data).getD p.val 0
    let k := slotAt m p
    let c := count p
    let v := s.verdict k c
    let b := s.slot k
    b.state ∈ [SlotState.empty, .identifying, .held, .stranger] → s.reportsOnly m p count → s.reported k c →
    (s.modEntry m).state = .online → s.mlc.queue.length < 31 → (∀ y i, s.ctx y = some i → i.slot = k → i.settle = none) →
    ∃ t, exec (.countsReply chars) s = .next t ∧ (∀ j, j ≠ k → s.onlySensed t j) ∧
      t = { s with
        store := t.store, chips := t.chips, heldSlots := t.heldSlots, emptySlots := t.emptySlots, counters := t.counters
        port := t.port, poster := t.poster
        mlc := { s.mlc with transaction := none, round := some { r with readList := rest }, queue := t.mlc.queue } } ∧
      (v = 2 → b.state ∈ [SlotState.identifying, .held, .stranger] →
        t.slot k = s.sensed k c true ∧ t.chip k = { s.chip k with runReported := true } ∧
        t = { s with store := t.store, chips := t.chips
                     mlc := { s.mlc with transaction := none, round := some { r with readList := rest } } }) ∧
      (v = 2 → b.state = .empty → b.lamp = .off →
        t.slot k = { s.sensed k c true with state := .identifying, key := 0xFFFF, attempts := 0 } ∧
        t.chip k = { s.chip k with step := .reading, readOut := true, runReported := true } ∧
        t.emptySlots = s.emptySlots - 1 ∧ t.heldSlots = s.heldSlots ∧
        t.mlc.queue = s.mlc.queue ++ (if (s.chip k).readOut then [] else [.readFob k]) ∧
        t.counters = s.counters ∧ t.port = s.port) ∧
      (v = 1 → b.state = .identifying ∨ b.state = .stranger →
        t.slot k = (s.sensed k c false).cleared ∧ t.chip k = { s.chip k with step := .none, runReported := true } ∧
        t.emptySlots = s.emptySlots + 1 ∧ t.heldSlots = s.heldSlots ∧ t.counters = s.counters ∧ t.port = s.port ∧
        (b.lamp = .off → t.mlc.queue = s.mlc.queue) ∧
        (b.lamp = .steady → (.lamp k) ∉ s.mlc.queue → (.lamp k) ∉ s.mlc.waiting →
          t.mlc.queue = s.mlc.queue ++ [.lamp k])) ∧
      (∀ i e, v = 1 → b.state = .held → b.key = ofIx i → s.lowestFree e →
        t.slot k = (s.sensed k c false).cleared ∧
        t.key i = { s.key i with state := .missing, slot := 0xFFFF, forcedRemoval := false } ∧
        t.showsSlot e 6 3 k (ofIx i) ∧ word t.byte (entryBase e + 8) = (s.key i).fob ∧
        t.heldSlots = s.heldSlots - 1 ∧ t.emptySlots = s.emptySlots + 1 ∧
        s.talliedOnce t 6 (some m) (some (s.key i).cls))

/-- Reports of a slot in doubt, in an ONLINE module. The first confirmed PRESENT of an UNVERIFIED slot offers READ FOB,
to verify the key it names or to identify what is in it; a confirmed ABSENT makes it EMPTY, and a key it named MISSING,
with a KEY UNACCOUNTED alert and event. The eighth INVALID of a slot outside a hand-out makes it FAULT with its alert
posted, and the record a HELD slot names CHECK. A confirmed decision takes a slot out of FAULT: UNVERIFIED with its
history cleared when it names a key, else IDENTIFYING or EMPTY. -/
def Obligations.DoubtfulSlotReports : Prop :=
  ∀ (s : State) (chars : List RxChar) (data : List Byte) (m : ModIx) (r : Round) (rest : List ModIx) (p : PosIx), s.quiet →
    s.countsArrive m chars data r rest →
    let count := fun p : PosIx => (countsOf data).getD p.val 0
    let k := slotAt m p
    let c := count p
    let v := s.verdict k c
    let b := s.slot k
    s.reportsOnly m p count → (s.modEntry m).state = .online → s.mlc.queue.length < 31 →
    (∀ y i, s.ctx y = some i → i.slot = k → i.settle = none) →
    let nameless := ∀ i : RecIx, b.key ≠ ofIx i
    let opens := b.state = .unverified ∧ (s.chip k).step = .none ∨ b.state = .fault
    ∃ t, exec (.countsReply chars) s = .next t ∧ (∀ j, j ≠ k → s.onlySensed t j) ∧
      (∀ i : RecIx, s.reported k c → v = 2 → b.state = .unverified → (s.chip k).step = .none → b.key = ofIx i →
        t.slot k = { s.sensed k c true with attempts := 0 } ∧
        t.chip k = { s.chip k with step := .verifying, readOut := true, runReported := true } ∧
        t.mlc.queue = s.mlc.queue ++ (if (s.chip k).readOut then [] else [.readFob k]) ∧
        t.counters = s.counters ∧ t.port = s.port ∧ ∀ j, t.key j = s.key j) ∧
      (s.reported k c → v = 2 → opens → nameless →
        t.slot k = { s.sensed k c true with state := .identifying, key := 0xFFFF, attempts := 0, lamp := .off } ∧
        t.chip k = { s.chip k with step := .reading, readOut := true, runReported := true } ∧
        ((s.chip k).readOut = false → (.readFob k) ∈ t.mlc.queue) ∧ t.counters = s.counters ∧ t.port = s.port) ∧
      (s.reported k c → v = 1 → opens → nameless →
        t.slot k = (s.sensed k c false).cleared ∧ (t.chip k).step = .none ∧ t.emptySlots = s.emptySlots + 1 ∧
        t.counters = s.counters ∧ t.port = s.port) ∧
      (∀ i e, s.reported k c → v = 1 → b.state = .unverified → b.key = ofIx i → s.lowestFree e →
        t.slot k = (s.sensed k c false).cleared ∧ (t.chip k).step = .none ∧ t.emptySlots = s.emptySlots + 1 ∧
        t.key i = { s.key i with state := .missing, slot := 0xFFFF, keyUnaccounted := false } ∧
        t.showsSlot e 7 3 k (ofIx i) ∧ s.talliedOnce t 7 (some m) (some (s.key i).cls)) ∧
      (∀ i : RecIx, s.reported k c → b.state = .fault → b.key = ofIx i →
        t.slot k = { s.sensed k c (decide (v = 2)) with state := .unverified, history := 0, lamp := .off } ∧
        t.chip k = { s.chip k with step := .none, runReported := false } ∧
        t.counters = s.counters ∧ t.port = s.port ∧ ∀ j, t.key j = s.key j) ∧
      (∀ e, s.eighthInvalid k c → b.state ∈ [SlotState.empty, .identifying, .held, .stranger, .unverified] →
        s.lowestFree e →
        (t.slot k).state = .fault ∧ (t.slot k).key = b.key ∧ (t.slot k).attempts = 0 ∧ (t.slot k).lamp = .steady ∧
        (t.slot k).markSlotFault = false ∧ (t.chip k).step = .none ∧
        (b.state = .stranger → (t.slot k).reason = .unknownFob ∧ (t.slot k).fobSeen = 0 ∧
          (t.slot k).markStranger = false ∧ (t.slot k).surveyFound = b.surveyFound) ∧
        (∀ i : RecIx, b.key = ofIx i → t.showsSlot e 10 2 k (ofIx i) ∧
          t.key i = { s.key i with state := if b.state = .held then .check else (s.key i).state }) ∧
        (nameless → t.showsSlot e 10 2 k 0xFFFF) ∧
        (b.lamp ≠ .steady → (.lamp k) ∈ t.mlc.queue ++ t.mlc.waiting) ∧ t.counters = s.counters)

/-- Reports of a slot in a hand-out, for the one context that refers to its key. ABSENT while the context is OPENING or
OPEN is a collection and while it is RELATCHING a late collection: the loan opens with its entry in the Due List, behind
or ahead of a running pass's cursor, the slot is EMPTY, the cell gets COLLECTED or TAKEN LATE, one event is raised, and
a collection asks for LATCH close. ABSENT while it is WAITING is a forced removal: record MISSING with its alert posted,
KEY REMOVED in the cell, the context gone from its wait list. The eighth INVALID ends it SENSOR FAULT: record CHECK,
slot FAULT naming the key, LATCH close asked unless the latch is CLOSED with no open outstanding. The order of
acceptance is the model's list (log entry 24), and the close asked in a settle that a JAMMED close began is the model's
choice (log entry 35). -/
def Obligations.HandOutReports : Prop :=
  ∀ (s : State) (chars : List RxChar) (data : List Byte) (m : ModIx) (r : Round) (rest : List ModIx) (p : PosIx) (x : CtxIx)
    (y : Context) (i : RecIx) (cell : CellIx), s.quiet → s.countsArrive m chars data r rest →
    let count := fun p : PosIx => (countsOf data).getD p.val 0
    let k := slotAt m p
    let c := count p
    let b := s.slot k
    s.reportsOnly m p count → (s.modEntry m).state = .online → s.mlc.queue.length < 31 →
    x ∈ s.release.order → s.ctx x = some y → y.slot = k → y.key = some i → y.cell = some cell → b.key = ofIx i →
    (∀ x', x' ≠ x → ∀ y', s.ctx x' = some y' → y'.slot ≠ k) → b.state = .releasing ∨ b.state = .relatching →
    (y.state ≠ .relatching → y.settle = none) →
    let removed := s.reported k c ∧ s.verdict k c = 1
    let loan := { s.key i with state := .out, slot := 0xFFFF, agreement := y.agreement, due := y.due,
                               handOut := s.loans.minute, level := 0, announced := 0 }
    ∃ t, exec (.countsReply chars) s = .next t ∧ (∀ j, j ≠ k → s.onlySensed t j) ∧ (∀ j, j ≠ x → t.ctx j = s.ctx j) ∧
      let ends := fun code : Code => t.holdsResult cell code (BitVec.ofNat 8 x.val) (ofIx i) ∧
        half (t.cellByte cell) 24 = ofIx k ∧ half (t.cellByte cell) 26 = BitVec.ofNat 16 y.window ∧
        t.release.reservations = s.release.reservations - 1
      let opened := t.key i = loan ∧ t.emptySlots = s.emptySlots + 1 ∧ s.dueJoined t i y.due
      let closes := ((s.chip k).latchOut = none → (t.slot k).latch = .closing ∧ (t.chip k).latchOut = some .close ∧
          (.latch k .close) ∈ t.mlc.queue) ∧
        ((s.chip k).latchOut ≠ none → (t.slot k).latch = b.latch ∧ (t.chip k).latchOut = (s.chip k).latchOut ∧
          (t.chip k).latchOwed = some .close)
      (removed → y.state = .opening ∨ y.state = .opened →
        ends .collected ∧ opened ∧ closes ∧ t.slot k = { (s.sensed k c false).cleared with latch := (t.slot k).latch } ∧
        t.ctx x = some { y with state := .closing, cell := none, key := none, timer := false } ∧
        s.talliedOnce t 1 (some m) (some (s.key i).cls)) ∧
      (removed → y.state = .relatching →
        ends .takenLate ∧ opened ∧ t.slot k = (s.sensed k c false).cleared ∧
        t.ctx x = (if y.settle = none then some { y with cell := none, key := none, removalDecided := true } else none) ∧
        s.talliedOnce t 3 (some m) (some (s.key i).cls)) ∧
      (∀ e, removed → y.state = .waiting → s.lowestFree e →
        ends .keyRemoved ∧ t.slot k = (s.sensed k c false).cleared ∧
        t.key i = { s.key i with state := .missing, slot := 0xFFFF, forcedRemoval := false } ∧
        t.showsSlot e 6 3 k (ofIx i) ∧ t.ctx x = none ∧ t.waitList m = (s.waitList m).erase x ∧
        t.release.waitingCount = s.release.waitingCount - 1 ∧ t.emptySlots = s.emptySlots + 1 ∧
        s.talliedOnce t 6 (some m) (some (s.key i).cls)) ∧
      (∀ e, s.eighthInvalid k c → s.lowestFree e →
        ends .sensorFault ∧ (t.slot k).state = .fault ∧ (t.slot k).key = ofIx i ∧ (t.slot k).lamp = .steady ∧
        t.key i = { s.key i with state := .check } ∧ t.showsSlot e 10 2 k (ofIx i) ∧ t.ctx x = none ∧
        (b.latch ≠ .closed ∨ (s.chip k).latchOut = some .open_ → closes) ∧
        (b.latch = .closed → (s.chip k).latchOut ≠ some .open_ →
          (t.slot k).latch = .closed ∧ (t.chip k).latchOut = (s.chip k).latchOut) ∧ t.counters = s.counters)

/-- A READ FOB reply for a slot that awaits none is discarded. In IDENTIFYING, a fob is noted and its lookup begins at
the free Walker, is answered at once for the invalid fob ID 0xFFFFFFFF, or joins the requests of a busy Walker, in the
place of an earlier request of the slot if it has one; a first or second miss offers READ FOB again; a third makes the
slot an UNREADABLE STRANGER. In UNVERIFIED, the fob of the named key makes the slot HELD and the record IN. -/
def Obligations.FobReplyOutcomes : Prop :=
  ∀ (s : State) (x : Transaction) (a : Awaited) (chars : List RxChar) (data : List Byte) (k : SlotIx), s.quiet →
    s.mlc.transaction = some x → x.phase = .awaiting → x.work = .command (.readFob k) → x.work.awaited = some a →
    judge a (x.received ++ chars) = .good data → (s.walker.walk = none → s.walker.slotRequests = []) →
    let r := s.slot k
    let f := word (fun n => data.getD n 0) 2
    let read := data.getD 1 0 = 0 ∧ f ≠ 0
    let identifying := r.state = .identifying ∧ (s.chip k).step = .reading
    let verifying := r.state = .unverified ∧ (s.chip k).step = .verifying
    ∃ t, exec (.fobReply chars) s = .next t ∧ (∀ j, j ≠ k → t.slot j = s.slot j ∧ t.chip j = s.chip j) ∧
      (¬ identifying → ¬ verifying → t.chip k = { s.chip k with readOut := false } ∧
        t = { s with chips := t.chips, mlc := { s.mlc with transaction := none } }) ∧
      (identifying → read → f ≠ 0xFFFFFFFF → s.walker.walk = none →
        t.slot k = { r with attempts := r.attempts + 1, fobSeen := f } ∧
        t.chip k = { s.chip k with readOut := false, step := .looking } ∧
        t.walker = { s.walker with walk := some (s.begunWalk (.slot k) f true) } ∧
        t = { s with store := t.store, chips := t.chips, walker := t.walker, mlc := { s.mlc with transaction := none } }) ∧
      (identifying → read → f = 0xFFFFFFFF → s.walker.walk = none →
        (t.slot k).state = .stranger ∧ (t.slot k).reason = .unknownFob ∧ (t.slot k).fobSeen = f ∧
        (t.slot k).attempts = r.attempts + 1 ∧ (t.chip k).step = .none) ∧
      (identifying → read → s.walker.walk ≠ none →
        t.slot k = { r with attempts := r.attempts + 1, fobSeen := f } ∧
        t.chip k = { s.chip k with readOut := false, step := .looking } ∧
        ((∀ q ∈ s.walker.slotRequests, q.slot ≠ k) →
          t.walker = { s.walker with slotRequests := s.walker.slotRequests ++ [{ slot := k, fob := f }] }) ∧
        (∀ l1 q l2, s.walker.slotRequests = l1 ++ q :: l2 → q.slot = k → (∀ x ∈ l1 ++ l2, x.slot ≠ k) →
          t.walker = { s.walker with slotRequests := l1 ++ { slot := k, fob := f } :: l2 }) ∧
        t = { s with store := t.store, chips := t.chips, walker := t.walker, mlc := { s.mlc with transaction := none } }) ∧
      (identifying → ¬ read → r.attempts.toNat + 1 < 3 → (s.modEntry (moduleOf k)).state = .online →
        s.mlc.queue.length < 32 →
        t.slot k = { r with attempts := r.attempts + 1 } ∧ t.chip k = { s.chip k with readOut := true } ∧
        t = { s with store := t.store, chips := t.chips
                     mlc := { s.mlc with transaction := none, queue := s.mlc.queue ++ [.readFob k] } }) ∧
      (identifying → ¬ read → r.attempts = 2 →
        (t.slot k).state = .stranger ∧ (t.slot k).reason = .unreadable ∧ (t.slot k).fobSeen = 0 ∧
        (t.slot k).lamp = .steady ∧ (t.slot k).attempts = 3 ∧ (t.chip k).step = .none) ∧
      (∀ i, verifying → r.key = ofIx i → read → f = (s.key i).fob →
        t.key i = { s.key i with state := .resting } ∧
        t.slot k = { r with state := .held, attempts := r.attempts + 1, reason := .unknownFob, surveyFound := false,
                            markStranger := false, lamp := .off } ∧
        (t.chip k).step = .none ∧ t.heldSlots = s.heldSlots + 1)

/-- READ FOB replies of an UNVERIFIED slot whose content is verified. Another fob than that of the key it names, or the
third read without contact, leaves the key MISSING with its KEY UNACCOUNTED alert and event; the slot is IDENTIFYING
with the lookup of the fob begun, or an UNREADABLE STRANGER. An earlier read without contact offers READ FOB again. When
the slot has lost its key, the coming read is an identification read. With one FREE entry the slot's alert is posted and
the key's deferred. That the read after the loss counts as the first attempt is the model's reading (log entry 26). -/
def Obligations.VerificationReads : Prop :=
  ∀ (s : State) (x : Transaction) (a : Awaited) (chars : List RxChar) (data : List Byte) (k : SlotIx), s.quiet →
    s.mlc.transaction = some x → x.phase = .awaiting → x.work = .command (.readFob k) → x.work.awaited = some a →
    judge a (x.received ++ chars) = .good data → (s.slot k).state = .unverified → (s.chip k).step = .verifying →
    (s.slot k).lamp = .off → (s.walker.walk = none → s.walker.slotRequests = []) →
    let r := s.slot k
    let m := moduleOf k
    let f := word (fun n => data.getD n 0) 2
    let read := data.getD 1 0 = 0 ∧ f ≠ 0
    let lookedUp := read ∧ f ≠ 0xFFFFFFFF ∧ s.walker.walk = none ∧ homeIndex f s.params.homeSpan < 1024
    let full := ∀ e : EntryIx, s.byte (entryBase e) ≠ 0
    ∃ t, exec (.fobReply chars) s = .next t ∧ (∀ j, j ≠ k → t.slot j = s.slot j ∧ t.chip j = s.chip j) ∧
      let begun := t.walker = { s.walker with walk := some (s.begunWalk (.slot k) f true) } ∧
        t.chip k = { s.chip k with readOut := false, step := .looking }
      let again := fun n : SlotRec => t.slot k = n ∧ t.mlc.queue = s.mlc.queue ++ [.readFob k] ∧
        t.counters = s.counters ∧ ∀ i, t.key i = s.key i
      (∀ i, r.key = ofIx i →
        let y := s.key i
        let missing := { y with state := .missing, slot := 0xFFFF }
        let shows := fun e => t.showsAlert e 7 3 0 (ofIx k) (ofIx i) (ofIx m) ∧ t.showsFob e y
        let strange := { r with state := .stranger, key := 0xFFFF, reason := .unreadable, fobSeen := 0, attempts := 3
                                lamp := .steady }
        (lookedUp → f ≠ y.fob →
          t.slot k = { r with state := .identifying, key := 0xFFFF, fobSeen := f, attempts := 0 } ∧ begun ∧
          (∀ e, s.lowestFree e → t.key i = { missing with keyUnaccounted := false } ∧ shows e ∧
            s.talliedOnce t 7 (some m) (some y.cls)) ∧
          (full → t.key i = { missing with keyUnaccounted := true } ∧ s.hasDeferred t ∧
            ∃ u : State, s.talliedOnce u 7 (some m) (some y.cls) ∧ u.talliedOnce t 14 (some m) (some y.cls))) ∧
        (¬ read → r.attempts.toNat + 1 < 3 → (s.modEntry m).state = .online → s.mlc.queue.length < 32 →
          again { r with attempts := r.attempts + 1 } ∧ t.chip k = { s.chip k with readOut := true }) ∧
        (¬ read → r.attempts = 2 →
          (t.chip k).step = .none ∧
          (s.mlc.queue.length < 32 → ∀ e, s.lowestFree e → (∃ e', e' ≠ e ∧ s.byte (entryBase e') = 0) →
            ∃ u : State, s.talliedOnce u 7 (some m) (some y.cls) ∧ u.talliedOnce t 8 (some m) none) ∧
          (∀ e e', s.lowestFree e → e < e' → s.byte (entryBase e') = 0 →
            (∀ j, e < j → j < e' → s.byte (entryBase j) ≠ 0) →
            t.slot k = { strange with markStranger := false } ∧
            t.key i = { missing with keyUnaccounted := false } ∧
            t.showsAlert e 8 2 1 (ofIx k) 0xFFFF (ofIx m) ∧ shows e') ∧
          (∀ e, s.lowestFree e → (∀ e', e' ≠ e → s.byte (entryBase e') ≠ 0) →
            t.slot k = { strange with markStranger := false } ∧ t.key i = { missing with keyUnaccounted := true } ∧
            t.showsAlert e 8 2 1 (ofIx k) 0xFFFF (ofIx m) ∧ s.hasDeferred t))) ∧
      ((∀ i : RecIx, r.key ≠ ofIx i) →
        (lookedUp → t.slot k = { r with state := .identifying, attempts := 1, fobSeen := f } ∧ begun ∧
          t.counters = s.counters) ∧
        (¬ read → (s.modEntry m).state = .online → s.mlc.queue.length < 32 →
          again { r with state := .identifying, attempts := 1 } ∧
          t.chip k = { s.chip k with step := .reading, readOut := true }))

/-- A READ FOB reply of a survey is held with its position; the event that leaves no position to read, with the counts
held or given up, seeds the module. Each slot takes its survey count, or 0 when the counts were given up. A WITHDRAWN
slot takes nothing else. A valid count with a fob makes an EMPTY slot a survey-found STRANGER with no mark, decided
PRESENT, its baseline raised by SEED DELTA; with no contact it stays EMPTY, decided ABSENT; an INVALID count, or a
position not read, leaves it EMPTY and unlearned. The module is surveyed; with the last survey of the power-on sequence
SURVEY becomes 0 and READY 1, rounds begin and a scan starts. That a tail of WITHDRAWN positions is passed in the event
of the read before it is the model's reading (log entry 17). -/
def Obligations.SurveyReadsAndSeeding : Prop :=
  ∀ (s : State) (x : Transaction) (a : Awaited) (chars : List RxChar) (data : List Byte) (m : ModIx) (p : PosIx)
    (v : Survey), s.quiet → s.mlc.transaction = some x → x.phase = .awaiting → x.work = .surveyFob m p →
    x.work.awaited = some a → judge a (x.received ++ chars) = .good data → s.mlc.survey = some v → v.module = m →
    let f := word (fun n => data.getD n 0) 2
    let fobs := v.fobs ++ [{ pos := p, fob := if data.getD 1 0 = 0 ∧ f ≠ 0 then some f else none }]
    let more := ∃ q : PosIx, v.nextPos ≤ q.val ∧ (s.slot (slotAt m q)).state ≠ .withdrawn
    (v.stage ≠ .fobs ∨ more →
      exec (.fobReply chars) s = .next { s with
        mlc := { s.mlc with transaction := none, survey := some { v with fobs := fobs } } }) ∧
    (v.stage = .fobs → ¬ more → (fobs.map SurveyFob.pos).Nodup → (s.modEntry m).state = .online → s.paramsOk →
      (∀ q, (s.slot (slotAt m q)).lamp = .off ∧
        ((s.slot (slotAt m q)).state = .empty ∨ (s.slot (slotAt m q)).state = .withdrawn)) →
      let count := fun q : PosIx => match v.counts with
        | .held l => l.getD q.val 0
        | _ => 0
      let valid := fun q => count q ≠ 0 ∧ count q ≠ 4095
      let strange := fun q g => (s.slot (slotAt m q)).state = .empty ∧ valid q ∧ { pos := q, fob := some g } ∈ fobs
      ∃ t, exec (.fobReply chars) s = .next t ∧
        (∀ q, let k := slotAt m q
          let b := s.slot k
          (b.state = .withdrawn → t.slot k = { b with raw := count q }) ∧
          (b.state = .empty → (t.chip k).runReported = true ∧
            (¬ valid q ∨ (∀ g, { pos := q, fob := g } ∉ fobs) →
              t.slot k = { b.cleared with raw := count q, history := 0, decided := false }) ∧
            (valid q → { pos := q, fob := none } ∈ fobs →
              t.slot k = { b.cleared with raw := count q, history := 0x55555555, decided := false, learned := true
                                          baseline := BitVec.ofNat 16 (16 * (count q).toNat) })) ∧
          ∀ g, strange q g →
            t.slot k = { b with
              raw := count q, history := 0xAAAAAAAA, decided := true, learned := true, state := .stranger
              baseline := BitVec.ofNat 16 (min (16 * ((count q).toNat + s.params.seedDelta)) 65520)
              key := 0xFFFF, reason := .unknownFob, fobSeen := g, surveyFound := true, lamp := .steady } ∧
            (.lamp k) ∈ t.mlc.queue ++ t.mlc.waiting) ∧
        ((∀ q g, ¬ strange q g) → t.counters = s.counters ∧ t.emptySlots = s.emptySlots) ∧
        (∀ q g, strange q g → (∀ q' g', q' ≠ q → ¬ strange q' g') → s.mlc.queue.length < 32 →
          s.talliedOnce t 8 (some m) none ∧ t.emptySlots = s.emptySlots - 1) ∧
        (∀ k, moduleOf k ≠ m → t.slot k = s.slot k) ∧
        t.modEntry m = { s.modEntry m with surveyed := true, surveying := false } ∧
        (t.mlc.survey = none ∧ t.mlc.transaction = none) ∧
        (s.phase = .running → t.phase = .running ∧ t.port = s.port) ∧
        (s.phase = .powerOn → (∃ j, j ≠ m ∧ (s.modEntry j).surveying = true) → t.phase = .powerOn ∧ t.port = s.port) ∧
        (s.phase = .powerOn → s.mlc.identNext = 16 → (∀ j, j ≠ m → (s.modEntry j).surveying = false) →
          s.board.scan = none →
          t.phase = .running ∧ t.port = { s.port with survey := false, ready := true } ∧
          t.board.scan = some { start := s.board.lastTaken + 1, examined := 0 } ∧
          t.mlc.round ≠ none ∧ t.mlc.roundTimer = .running s.params.roundPeriod))

/-- LATCH replies, for a slot with one context and no action owed: an open latch makes an OPENING context OPEN with its
timer running and the lamp FLASH, or, with a cancel noted, RELATCHING with LATCH close offered; a latch that did not
open ends it LATCH FAULT with the key back in its HELD slot; a close reply writes CLOSED or JAMMED, ends a CLOSING
context, and begins the settle of a RELATCHING one. Any reply that shows a latch short of the commanded position, with
or without a context, posts a LATCH FAULT alert or leaves its mark set. A LAMP reply ends its transaction and changes
nothing else. The mark of a reply to an open request that meets no OPENING context is the model's reading (log entry
13). The list of contexts in their order of acceptance is the model's (log entry 24). -/
def Obligations.LatchAndLampReplies : Prop :=
  ∀ (s : State) (x : Transaction) (a : Awaited) (chars : List RxChar) (data : List Byte) (k : SlotIx), s.quiet →
    s.mlc.transaction = some x → x.phase = .awaiting → x.work.awaited = some a →
    judge a (x.received ++ chars) = .good data →
    (x.work = .command (.lamp k) →
      exec (.lampReply chars) s = .next { s with mlc := { s.mlc with transaction := none } }) ∧
    (∀ action : Action, x.work = .command (.latch k action) → ∃ t, exec (.latchReply chars) s = .next t ∧
      let reached := data.getD 1 0 = if action = .open_ then 1 else 0
      (reached → (t.slot k).markLatchFault = (s.slot k).markLatchFault ∧
        ∀ y, inBlock 0x0800 0x0400 y → t.byte y = s.byte y) ∧
      (∀ e, ¬ reached → s.lowestFree e → (t.slot k).markLatchFault = false ∧ t.showsSlot e 11 2 k (ofIx? (recOf (t.slot k).key))) ∧
      (¬ reached → (∀ e : EntryIx, s.byte (entryBase e) ≠ 0) →
        (t.slot k).markLatchFault = true ∧ t.poster.deferred = true)) ∧
    (∀ (action : Action) (c : CtxIx) (y : Context) (i : RecIx) (cell : CellIx), x.work = .command (.latch k action) →
      (s.chip k).latchOwed = none → s.waitList (moduleOf k) = [] → c ∈ s.release.order → s.ctx c = some y → y.slot = k →
      (∀ c', c' ≠ c → ∀ y', s.ctx c' = some y' → y'.slot ≠ k) →
      let b := data.getD 1 0
      let r := s.slot k
      ∃ t, exec (.latchReply chars) s = .next t ∧
        (action = .close ∨ y.cancelNoted = false → (t.chip k).latchOut = none) ∧
        (action = .open_ → b = 1 → y.state = .opening → y.cancelNoted = false → r.state = .releasing → r.latch = .opening →
          t.ctx c = some { y with state := .opened, timer := true } ∧ t.slot k = { r with latch := .opened, lamp := .flash } ∧
          (∀ j, j ≠ k → t.slot j = s.slot j) ∧ ∀ j, j ≠ c → t.ctx j = s.ctx j) ∧
        (action = .open_ → b = 1 → y.state = .opening → y.cancelNoted = true → (s.modEntry (moduleOf k)).state = .online →
          t.ctx c = some { y with state := .relatching } ∧ (t.slot k).state = .relatching ∧ (t.slot k).latch = .closing ∧
          (t.chip k).latchOut = some .close) ∧
        (action = .open_ → b ≠ 1 → y.state = .opening → y.key = some i → y.cell = some cell →
          t.ctx c = none ∧ (t.slot k).state = .held ∧ (t.slot k).latch = (if b = 0 then .closed else .jammed) ∧
          (t.key i).state = .resting ∧ t.holdsResult cell .latchFault (BitVec.ofNat 8 c.val) (ofIx i) ∧
          t.release.reservations = s.release.reservations - 1) ∧
        (action = .close → (t.slot k).latch = (if b = 0 then .closed else .jammed) ∧ (t.slot k).state = r.state ∧
          (y.state = .closing → t.ctx c = none) ∧
          (y.state = .relatching → y.removalDecided = true → t.ctx c = none) ∧
          (y.state = .relatching → y.removalDecided = false → y.settle = none →
            t.ctx c = some { y with settle := some (s.params.confirmCount + 1) })))

/-- What a LATCH reply leads to. An owed action is offered at the reply: the close owed to a CLOSING context whose open
request is answered, or to a slot without a context, and the open owed when a close is answered. A CLOSING context whose
open request finds the latch closed ends with nothing owed. A close that finds its latch CLOSED examines the module's
wait list: with fewer than two latches of the module not CLOSED the head of the list becomes OPENING with its LATCH
open, and with two nobody is granted; a latch that did not close grants nobody. The list of contexts in their order of
acceptance is the model's (log entry 24). -/
def Obligations.OwedLatchAndGrants : Prop :=
  ∀ (s : State) (x : Transaction) (a : Awaited) (chars : List RxChar) (data : List Byte) (k : SlotIx) (action : Action),
    s.quiet → s.mlc.transaction = some x → x.phase = .awaiting → x.work = .command (.latch k action) →
    x.work.awaited = some a → judge a (x.received ++ chars) = .good data →
    let b := data.getD 1 0
    let m := moduleOf k
    let owed := (s.chip k).latchOwed
    ∃ t, exec (.latchReply chars) s = .next t ∧
      let offered := fun (f : Latch) (act : Action) => (t.slot k).latch = f ∧
        t.chip k = { s.chip k with latchOut := some act, latchOwed := none, reissued := false } ∧
        (.latch k act) ∈ t.mlc.queue ++ t.mlc.waiting ∧ (t.slot k).state = (s.slot k).state
      (∀ c y, s.ctx c = some y → y.slot = k → y.state = .closing → c ∈ s.release.order →
        (∀ c' y', s.ctx c' = some y' → y'.slot = k → c' = c) → action = .open_ → owed = some .close →
        (b ≠ 0 → (s.modEntry m).state = .online → offered .closing .close ∧ t.release = s.release) ∧
        (b = 0 → s.waitList m = [] → t.ctx c = none ∧ (∀ j, j ≠ c → t.ctx j = s.ctx j) ∧
          (t.slot k).latch = .closed ∧
          t.chip k = { s.chip k with latchOut := none, latchOwed := none, reissued := false })) ∧
      ((∀ c y, s.ctx c = some y → y.slot ≠ k) → (s.modEntry m).state = .online → action = .open_ →
        owed = some .close → offered .closing .close ∧ t.release = s.release) ∧
      ((∀ c y, s.ctx c = some y → y.slot = k → y.state = .opening) → (s.modEntry m).state = .online →
        action = .close → owed = some .open_ → offered .opening .open_ ∧ t.release = s.release) ∧
      (action = .close → owed = none → (∀ c y, s.ctx c = some y → y.slot = k → y.state = .waiting ∨ y.state = .closing) →
        let others := fun l : List SlotIx => l.Nodup ∧ ∀ j ∈ l, j ≠ k ∧ moduleOf j = m ∧ (s.slot j).latch ≠ .closed
        (∀ c1 cs y1 j, b = 0 → s.waitList m = c1 :: cs → s.ctx c1 = some y1 → y1.state = .waiting →
          moduleOf y1.slot = m → (s.modEntry m).state = .online → others [j] → (∀ l, others l → l.length ≤ 1) →
          y1.slot = k ∨ (s.slot y1.slot).latch = .closed ∧ (s.chip y1.slot).latchOut = none →
          t.waitList m = cs ∧ (∀ m', m' ≠ m → t.waitList m' = s.waitList m') ∧
          t.ctx c1 = some { y1 with state := .opening } ∧ (t.slot y1.slot).latch = .opening ∧
          (t.chip y1.slot).latchOut = some .open_ ∧ (.latch y1.slot .open_) ∈ t.mlc.queue ++ t.mlc.waiting ∧
          t.release.waitingCount = s.release.waitingCount - 1) ∧
        (b ≠ 0 ∨ (∃ j j', others [j, j']) → (∀ m', t.waitList m' = s.waitList m') ∧
          t.release.waitingCount = s.release.waitingCount))

/-- IDENTIFY replies. A slot count other than 24 makes the module REFUSED; when that is the 16th probe of the power-on
identification, SURVEY is 1 while surveys have begun, and otherwise READY is 1, rounds begin and a scan starts. A
never-surveyed UNKNOWN module becomes ONLINE and its survey begins. A surveyed UNKNOWN module, after a soft reset,
becomes ONLINE with every latch field CLOSED; its IDENTIFYING slots ask for their fobs again, its lamps that are not OFF
are requested, and everything else of its slots is kept. A surveyed LOST module becomes ONLINE with every latch field
CLOSED and every history and run-reported flag cleared, and keeps the states, keys, baselines and decisions of its
slots; its MODULE BACK alert goes to the lowest FREE shelf entry, or is deferred with its mark set. That characters are
taken for the reply of the probe that awaits one, a late reply to a transaction abandoned at a soft reset included, is
the model's choice (log entry 34). -/
def Obligations.IdentifyReplyOutcomes : Prop :=
  ∀ (s : State) (x : Transaction) (a : Awaited) (chars : List RxChar) (data : List Byte) (m : ModIx), s.quiet →
    s.mlc.transaction = some x → x.phase = .awaiting → x.work = .probe m → x.work.awaited = some a →
    judge a (x.received ++ chars) = .good data →
    (s.mlc.identNext < 15 →
      (data.getD 0 0 ≠ 24 → ∃ t, exec (.identifyReply chars) s = .next t ∧
        t.modEntry m = { s.modEntry m with state := .refused } ∧ (∀ j, j ≠ m → t.modEntry j = s.modEntry j) ∧
        t = { s with mlc := { s.mlc with transaction := none, identNext := s.mlc.identNext + 1, modules := t.mlc.modules } }) ∧
      (data.getD 0 0 = 24 → (s.modEntry m).state = .unknown → (s.modEntry m).surveyed = false → s.waitList m = [] →
        (∀ p, (s.slot (slotAt m p)).latch = .closed) → ∃ t, exec (.identifyReply chars) s = .next t ∧
          t.modEntry m = { s.modEntry m with state := .online, surveying := true } ∧
          (∀ j, j ≠ m → t.modEntry j = s.modEntry j) ∧ (∀ k, t.slot k = s.slot k) ∧
          (∀ y, y < 0x0C00 ∨ 0x3000 ≤ y → t.byte y = s.byte y) ∧
          t = { s with store := t.store
                       mlc := { s.mlc with transaction := none, identNext := s.mlc.identNext + 1
                                           modules := t.mlc.modules } }) ∧
      (data.getD 0 0 = 24 → (s.modEntry m).state = .unknown → (s.modEntry m).surveyed = true → s.waitList m = [] →
        ∃ t, exec (.identifyReply chars) s = .next t ∧
          t.modEntry m = { s.modEntry m with state := .online } ∧ (∀ j, j ≠ m → t.modEntry j = s.modEntry j) ∧
          (∀ p, let k := slotAt m p
            let b := s.slot k
            let identifying := b.state = .identifying
            t.slot k = { b with latch := .closed, lamp := (t.slot k).lamp
                                attempts := if identifying then 0 else b.attempts } ∧
            (identifying → t.chip k = { s.chip k with step := .reading, readOut := true } ∧
              (.readFob k) ∈ t.mlc.queue ++ t.mlc.waiting) ∧
            (¬ identifying → t.chip k = s.chip k) ∧
            ((t.slot k).lamp ≠ .off → (.lamp k) ∈ t.mlc.queue ++ t.mlc.waiting)) ∧
          (∀ k, moduleOf k ≠ m → t.slot k = s.slot k ∧ t.chip k = s.chip k) ∧
          (∀ y, y < 0x0C00 ∨ 0x3000 ≤ y → t.byte y = s.byte y) ∧
          t = { s with
            store := t.store, chips := t.chips, counters := t.counters
            mlc := { s.mlc with transaction := none, identNext := s.mlc.identNext + 1, modules := t.mlc.modules
                                queue := t.mlc.queue, waiting := t.mlc.waiting } })) ∧
    (s.mlc.identNext = 15 → data.getD 0 0 ≠ 24 → s.phase = .powerOn → ∃ t, exec (.identifyReply chars) s = .next t ∧
      t.mlc.identNext = 16 ∧ (t.modEntry m).state = .refused ∧
      ((∃ j, (s.modEntry j).surveying = true) → t.phase = .powerOn ∧ t.port = { s.port with survey := true }) ∧
      ((∀ j, (s.modEntry j).surveying = false) → t.phase = .running ∧
        t.port = { s.port with survey := false, ready := true } ∧ t.mlc.roundTimer = .running s.params.roundPeriod ∧
        (s.board.scan = none → t.board.scan = some { start := s.board.lastTaken + 1, examined := 0 }))) ∧
    (∀ r rest, s.mlc.identNext = 16 → s.phase = .running → s.mlc.round = some r → r.stage = .probing →
      r.probeList = m :: rest → rest ≠ [] → data.getD 0 0 = 24 → (s.modEntry m).state = .lost →
      (s.modEntry m).surveyed = true → s.waitList m = [] → ∃ t, exec (.identifyReply chars) s = .next t ∧
        (∀ e, s.lowestFree e → t.modEntry m = { s.modEntry m with state := .online, backMark := false } ∧
          t.showsAlert e 13 1 0 0xFFFF 0xFFFF (ofIx m) ∧ (s.mlc.queue.length ≤ 8 → t.counters = s.counters)) ∧
        ((∀ e : EntryIx, s.byte (entryBase e) ≠ 0) → t.modEntry m = { s.modEntry m with state := .online, backMark := true } ∧
          s.hasDeferred t ∧ (s.mlc.queue.length ≤ 8 → s.talliedOnce t 14 (some m) none)) ∧
        t.mlc.round = some { r with probeList := rest } ∧ t.mlc.transaction = none ∧
        (∀ j, j ≠ m → t.modEntry j = s.modEntry j) ∧
        (∀ p, let k := slotAt m p
          (t.slot k).latch = .closed ∧ (t.slot k).history = 0 ∧ (t.chip k).runReported = false ∧
          (t.slot k).state = (s.slot k).state ∧ (t.slot k).key = (s.slot k).key ∧
          (t.slot k).baseline = (s.slot k).baseline ∧ (t.slot k).decided = (s.slot k).decided ∧
          (t.slot k).pinnedFob = (s.slot k).pinnedFob) ∧
        ∀ k, moduleOf k ≠ m → t.slot k = s.slot k)

/-- The round timer's expiry while its round runs is remembered. With no round running a round starts: the timer runs
for ROUND PERIOD, UNKNOWN and LOST modules add 1 to their rounds since probe, those that reach 8 are on the probe list,
and with one measure group the read list holds the ONLINE modules that are not surveying, in ascending order. That the
read list is fixed in the event of the round's start is the model's reading (log entry 11). PROBE_DUE names a round
start at which a module's count reaches 8 (log entry 5). -/
def Obligations.RoundStarts : Prop :=
  ∀ (s : State) (n : Nat), s.quiet → s.mlc.roundTimer = .running n →
    let absent := fun m => (s.modEntry m).state = .unknown ∨ (s.modEntry m).state = .lost
    (s.mlc.round ≠ none → exec .roundTimerExpiry s = .next { s with mlc := { s.mlc with roundTimer := .expired } }) ∧
    (s.mlc.round = none →
      (s.params.measureGroups = 1 → (∃ m, (s.modEntry m).state = .online ∧ (s.modEntry m).surveying = false) →
        ∃ t r, exec .roundTimerExpiry s = .next t ∧ t.mlc.round = some r ∧
          (r.groups = 1 ∧ r.group = 0 ∧ r.stage = .measure) ∧
          (∀ m, m ∈ r.readList ↔ (s.modEntry m).state = .online ∧ (s.modEntry m).surveying = false) ∧
          (∀ m, m ∈ r.probeList ↔ absent m ∧ 7 ≤ (s.modEntry m).rounds) ∧
          (r.readList.Pairwise (fun a b => a.val < b.val) ∧ r.probeList.Pairwise (fun a b => a.val < b.val)) ∧
          (∀ m, (absent m → t.modEntry m = { s.modEntry m with rounds := min ((s.modEntry m).rounds + 1) 8 }) ∧
            (¬ absent m → t.modEntry m = s.modEntry m)) ∧
          t = { s with mlc := { s.mlc with round := some r, roundTimer := .running s.params.roundPeriod
                                           modules := t.mlc.modules } }) ∧
      (∀ m, absent m → (s.modEntry m).rounds = 7 →
        ∃ t r, exec (.probeDue m) s = .next t ∧ exec .roundTimerExpiry s = .next t ∧ t.mlc.round = some r ∧
          m ∈ r.probeList ∧ (t.modEntry m).rounds = 8))

/-! ## Timed events of the Release Unit -/

/-- The removal timer's expiry relatches an OPEN context: context and slot RELATCHING, LATCH close offered, latch
CLOSING, lamp OFF with a LAMP request. The notice that ends a settle ends the context NOT COLLECTED with one event, or
CANCELLED, with the key back in its HELD slot. The eighth round-end notice offers LATCH close for every jammed latch of
an ONLINE module with no action outstanding or owed. That the LATCH request stands before the LAMP request of its event
is the model's reading (log entry 15). SETTLE_END and JAM_REISSUE name the notices that complete their counts (log entry
5). -/
def Obligations.ReleaseTimedEvents : Prop :=
  (∀ (s : State) (c : CtxIx) (y : Context), s.quiet → s.ctx c = some y → y.state = .opened → y.timer = true →
    (s.modEntry (moduleOf y.slot)).state = .online → (s.chip y.slot).latchOut = none → s.mlc.queue.length < 31 →
    (.lamp y.slot) ∉ s.mlc.queue → (.lamp y.slot) ∉ s.mlc.waiting → (s.slot y.slot).state = .releasing →
    (s.slot y.slot).latch = .opened → (s.slot y.slot).lamp = .flash →
    ∃ t, exec (.removalTimerExpiry c) s = .next t ∧ t.ctx c = some { y with state := .relatching, timer := false } ∧
      (∀ j, j ≠ c → t.ctx j = s.ctx j) ∧
      t.slot y.slot = { s.slot y.slot with state := .relatching, latch := .closing, lamp := .off } ∧
      (t.chip y.slot).latchOut = some .close ∧ (∀ x, ¬ inBlock (slotBase y.slot) 24 x → t.byte x = s.byte x) ∧
      t = { s with store := t.store, chips := t.chips, release := t.release
                   mlc := { s.mlc with queue := s.mlc.queue ++ [.latch y.slot .close, .lamp y.slot] } }) ∧
  (∀ (s : State) (c : CtxIx) (y : Context) (i : RecIx) (cell : CellIx), s.quiet → s.ctx c = some y → y.settle = some 1 →
    y.key = some i → y.cell = some cell → y.state = .relatching → (s.slot y.slot).state = .relatching →
    (s.slot y.slot).lamp = .off →
    ∃ t, exec (.settleEnd c) s = .next t ∧ t.ctx c = none ∧ (∀ j, j ≠ c → t.ctx j = s.ctx j) ∧
      t.key i = { s.key i with state := .resting } ∧ (t.slot y.slot).state = .held ∧ (t.slot y.slot).key = ofIx i ∧
      t.heldSlots = s.heldSlots + 1 ∧ t.release.reservations = s.release.reservations - 1 ∧
      t.holdsResult cell (if y.cancelNoted then .cancelled else .notCollected) (BitVec.ofNat 8 c.val) (ofIx i) ∧
      (half (t.cellByte cell) 24 = ofIx y.slot ∧ half (t.cellByte cell) 26 = BitVec.ofNat 16 y.window) ∧
      (y.cancelNoted = true → t.counters = s.counters) ∧
      (y.cancelNoted = false → s.talliedOnce t 2 (some (moduleOf y.slot)) (some (s.key i).cls))) ∧
  (∀ s : State, s.quiet → s.release.roundEnds = 7 → ∃ t, exec .jamReissue s = .next t ∧ t.release.roundEnds = 0 ∧
    ∀ k, let due := (s.slot k).latch = .jammed ∧ (s.modEntry (moduleOf k)).state = .online ∧
          (s.chip k).latchOut = none ∧ (s.chip k).latchOwed = none
      (t.slot k).latch = (if due then .closing else (s.slot k).latch) ∧
      (t.chip k).latchOut = (if due then some .close else (s.chip k).latchOut) ∧
      (t.slot k).state = (s.slot k).state)

/-! ## The Loan Watch and the Alert Poster -/

/-- A second below 59 rises by 1 and nothing else changes. At 59 the tick is the minute event: the seconds are 0, the
minute count rises, saturating, and each ACCUMULATE counter adds its quantity. With the clock set a pass at the new
minute starts, or, while a pass or the rebuild runs, the event is held. That MINUTE_EVENT names the same tick is the
model's reading (log entry 5), and so is that ticks count while RESET is asserted (log entry 28). That no event is held
during a rebuild while the clock is not set is the model's choice (log entry 37). -/
def Obligations.ClockTicks : Prop :=
  ∀ s : State,
    (s.loans.second < 59 →
      exec .secondTick s = .next { s with loans := { s.loans with second := s.loans.second + 1 } }) ∧
    (s.loans.second = 59 → ∀ i ∈ [Instr.secondTick, .minuteEvent],
      let minute : Word := if s.loans.minute = 0xFFFFFFFF then 0xFFFFFFFF else s.loans.minute + 1
      let running := s.loans.pass ≠ none ∨ s.loans.rebuild ≠ none
      ∃ t, exec i s = .next t ∧
        (∀ j : CounterIx, s.counters[j.val].accumulate = false → t.counters[j.val] = s.counters[j.val]) ∧
        (∀ (j : CounterIx) (q n : Nat), s.counters[j.val].accumulate = true → s.counters[j.val].kinds.toNat = q →
          (q, n) ∈ [(0, s.loans.due.length), (1, s.loans.overdue), (2, s.heldSlots), (3, s.emptySlots),
            (4, s.release.waitingCount)] →
          let sum := s.counters[j.val].value.toNat + n
          t.counters[j.val] = { s.counters[j.val] with
            value := BitVec.ofNat 48 sum, overflow := s.counters[j.val].overflow || decide (2 ^ 48 ≤ sum) }) ∧
        (s.loans.clockSet = false → t.loans = { s.loans with second := 0, minute := minute }) ∧
        (s.loans.clockSet = true → running →
          t.loans = { s.loans with second := 0, minute := minute, held := true }) ∧
        (s.loans.clockSet = true → ¬ running → s.loans.due ≠ [] →
          t.loans = { s.loans with second := 0, minute := minute
                                   pass := some { minute := minute, full := false, cursor := 0 } }) ∧
        (s.loans.clockSet = true → ¬ running → s.loans.due = [] →
          t.loans = { s.loans with second := 0, minute := minute, held := false }) ∧
        t = { s with counters := t.counters, loans := t.loans })

/-- A visit writes the level for the pass minute and lowers the announced level to it, and the overdue count follows. An
announcement owed is posted into the lowest FREE entry, with the ALERT line re-evaluated, or deferred. The pass ends
past the last entry, and an ORDINARY pass at an entry due after its minute; a held minute event then starts one ORDINARY
pass at the current minute. -/
def Obligations.PassVisits : Prop :=
  ∀ (s : State) (p : Pass), s.quiet → s.loans.pass = some p →
    (∀ e : DueEntry, s.loans.due[p.cursor]? = some e → p.full = true ∨ e.due.toNat ≤ p.minute.toNat →
      let r := s.key e.key
      let level := if p.minute.toNat < e.due.toNat then 0
        else if p.minute.toNat < e.due.toNat + s.params.grace then 1
        else if p.minute.toNat < e.due.toNat + s.params.escalation then 2 else 3
      let announced := min r.announced.toNat level
      let owed := announced < level ∧ s.params.announceFrom ≤ level
      let visited := { r with level := BitVec.ofNat 4 level, announced := BitVec.ofNat 4 announced }
      ∃ t, exec .passVisit s = .next t ∧
        t.loans = { s.loans with
          pass := some { p with cursor := p.cursor + 1 }
          overdue := if r.level.toNat < 2 ∧ 2 ≤ level then s.loans.overdue + 1
            else if 2 ≤ r.level.toNat ∧ level < 2 then s.loans.overdue - 1 else s.loans.overdue } ∧
        (¬ owed → t.key e.key = visited ∧ (∀ x, ¬ inBlock (keyBase e.key) 32 x → t.byte x = s.byte x) ∧
          t = { s with store := t.store, loans := t.loans }) ∧
        (∀ a : EntryIx, owed → s.byte (entryBase a) = 0 → (∀ b, b < a → s.byte (entryBase b) ≠ 0) →
          t.key e.key = { visited with announced := BitVec.ofNat 4 level } ∧
          (t.byte (entryBase a) = 1 ∧ t.byte (entryBase a + 1) = BitVec.ofNat 8 level ∧
            t.byte (entryBase a + 2) = BitVec.ofNat 8 level ∧ t.byte (entryBase a + 3) = BitVec.ofNat 8 level) ∧
          (half t.byte (entryBase a + 4) = 0xFFFF ∧ half t.byte (entryBase a + 6) = ofIx e.key ∧
            word t.byte (entryBase a + 8) = r.fob ∧ word t.byte (entryBase a + 12) = r.vehicle ∧
            word t.byte (entryBase a + 16) = r.agreement ∧ word t.byte (entryBase a + 20) = s.loans.minute ∧
            word t.byte (entryBase a + 24) = r.due ∧ half t.byte (entryBase a + 28) = 0xFFFF ∧
            half t.byte (entryBase a + 30) = BitVec.ofNat 16 (min (p.minute.toNat - e.due.toNat) 65535)) ∧
          (∀ x, ¬ inBlock (keyBase e.key) 32 x → ¬ inBlock (entryBase a) 32 x → t.byte x = s.byte x) ∧
          t.postNoticed ∧ t = { s with store := t.store, loans := t.loans, port := t.port }) ∧
        (owed → (∀ a : EntryIx, s.byte (entryBase a) ≠ 0) →
          t.key e.key = visited ∧ (∀ x, ¬ inBlock (keyBase e.key) 32 x → t.byte x = s.byte x) ∧
          s.talliedOnce t 14 none (some r.cls) ∧
          t = { s with store := t.store, loans := t.loans, counters := t.counters
                       poster := { s.poster with deferred := true
                                                 noted := s.poster.noted || s.poster.scan.isSome } })) ∧
    ((∀ e, s.loans.due[p.cursor]? = some e → p.full = false ∧ p.minute.toNat < e.due.toNat) →
      exec .passVisit s = .next { s with
        loans :=
          if s.loans.held = true ∧ s.loans.clockSet = true then
            { s.loans with
              held := false
              pass := if s.loans.due = [] then none
                else some { minute := s.loans.minute, full := false, cursor := 0 } }
          else { s.loans with pass := none } })

/-- The rebuild examines one record a step: an OUT record's entry joins the Due List after every entry due at or before
it, and counts as overdue at level 2 or 3; any other record is passed over. After record 1599 the rebuild ends: a held
minute event starts its pass, and with the identification and the surveys over READY becomes 1 and a scan of the board
starts. -/
def Obligations.RebuildSteps : Prop :=
  ∀ (s : State) (i : RecIx), s.quiet → s.loans.rebuild = some i.val →
    let r := s.key i
    (i.val < 1599 → r.state ≠ .out →
      exec .rebuildStep s = .next { s with loans := { s.loans with rebuild := some (i.val + 1) } }) ∧
    (∀ l1 l2, i.val < 1599 → r.state = .out → s.loans.due = l1 ++ l2 → (∀ x ∈ l1, x.due.toNat ≤ r.due.toNat) →
      (∀ x ∈ l2.head?, r.due.toNat < x.due.toNat) → s.loans.pass = none →
      exec .rebuildStep s = .next { s with
        loans := { s.loans with
          due := l1 ++ { key := i, due := r.due } :: l2
          overdue := s.loans.overdue + (if 2 ≤ r.level.toNat then 1 else 0)
          rebuild := some (i.val + 1) } }) ∧
    (i.val = 1599 → r.state ≠ .out → s.loans.pass = none → s.phase = .softReset → s.mlc.identNext = 16 →
      s.mlc.survey = none → (∀ m, (s.modEntry m).surveying = false) → s.board.scan = none → s.port.ready = false →
      exec .rebuildStep s = .next { s with
        phase := .running
        port := { s.port with ready := true }
        board := { s.board with scan := some { start := s.board.lastTaken + 1, examined := 0 } }
        loans :=
          if s.loans.held = true ∧ s.loans.clockSet = true then
            { s.loans with
              rebuild := none
              held := false
              pass := if s.loans.due = [] then none
                else some { minute := s.loans.minute, full := false, cursor := 0 } }
          else { s.loans with rebuild := none } })

/-- A step of the deferred scan over an item that owes nothing moves on to the next; past key record 1599 the scan
completes, the deferred flag is cleared unless a deferral was noted, and a noted deferral starts a new scan while an
entry is FREE. A module's owed MODULE LOST goes into the lowest FREE entry, clears its mark and re-evaluates the ALERT
line; on a full shelf the alert is deferred and the scan ends. -/
def Obligations.DeferredScanSteps : Prop :=
  ∀ (s : State) (c : ScanCursor), s.quiet → s.poster.scan = some c →
    let clear : Prop := match c with
      | .module m => (s.modEntry m).lostMark = false ∧ (s.modEntry m).backMark = false
      | .slot k => (s.slot k).markStranger = false ∧ (s.slot k).markWrongSlot = false ∧
          (s.slot k).markSlotFault = false ∧ (s.slot k).markLatchFault = false
      | .key i => (s.key i).state = .unused ∨
          (s.key i).keyBack = false ∧ (s.key i).forcedRemoval = false ∧ (s.key i).keyUnaccounted = false ∧
            (s.key i).returnedLate = false ∧
            ¬ ((s.key i).state = .out ∧ (s.key i).announced.toNat < (s.key i).level.toNat ∧
              s.params.announceFrom ≤ (s.key i).level.toNat)
    (∀ d, clear → scanFollows c d →
      exec .deferredScanStep s = .next { s with poster := { s.poster with scan := some d } }) ∧
    (clear → c = .key 1599 →
      exec .deferredScanStep s = .next { s with
        poster :=
          if s.poster.noted = false then { s.poster with scan := none, deferred := false }
          else if ∃ a : EntryIx, s.byte (entryBase a) = 0 then { s.poster with scan := some (.module 0), noted := false }
          else { s.poster with scan := none } }) ∧
    (∀ (m : ModIx) (d : ScanCursor), c = .module m → (s.modEntry m).lostMark = true → (s.modEntry m).backMark = false →
      scanFollows c d → ∃ t, exec .deferredScanStep s = .next t ∧
        (∀ a : EntryIx, s.byte (entryBase a) = 0 → (∀ b, b < a → s.byte (entryBase b) ≠ 0) →
          t.modEntry m = { s.modEntry m with lostMark := false } ∧ (∀ j, j ≠ m → t.modEntry j = s.modEntry j) ∧
          (t.byte (entryBase a) = 1 ∧ t.byte (entryBase a + 1) = 12 ∧ t.byte (entryBase a + 2) = 3 ∧
            half t.byte (entryBase a + 28) = ofIx m) ∧
          (∀ x, ¬ inBlock (entryBase a) 32 x → t.byte x = s.byte x) ∧ t.postNoticed ∧
          t = { s with store := t.store, port := t.port, mlc := { s.mlc with modules := t.mlc.modules }
                       poster := { s.poster with scan := some d } }) ∧
        ((∀ a : EntryIx, s.byte (entryBase a) ≠ 0) → s.talliedOnce t 14 (some m) none ∧
          t = { s with counters := t.counters, poster := { s.poster with scan := none, deferred := true, noted := true } }))

/-- What a step of the deferred scan posts. A module's MODULE LOST comes before its MODULE BACK. The one mark of a slot
or of a key record is posted with the kind, urgency and fields of its alert, and cleared; an owed announcement of an OUT
record is posted at its level, which is then announced. Each goes to the lowest FREE entry, with the ALERT line
re-evaluated, after which the scan moves on; on a full shelf it is deferred, with one ALERT DEFERRED event, and the scan
ends, what was posted before it staying posted. -/
def Obligations.DeferredScanPosts : Prop :=
  ∀ (s : State) (c d : ScanCursor), s.quiet → s.poster.scan = some c → scanFollows c d →
    ∃ t, exec .deferredScanStep s = .next t ∧
      let full := ∀ e : EntryIx, s.byte (entryBase e) ≠ 0
      let only := fun e : EntryIx => s.lowestFree e ∧ ∀ e', e' ≠ e → s.byte (entryBase e') ≠ 0
      let both := fun e e' : EntryIx => s.lowestFree e ∧ e < e' ∧ s.byte (entryBase e') = 0 ∧
        ∀ j, e < j → j < e' → s.byte (entryBase j) ≠ 0
      let on := t.poster = { s.poster with scan := some d } ∧ t.counters = s.counters
      let off := t.poster = { s.poster with scan := none, deferred := true, noted := true }
      let stopped := fun (m : Option ModIx) (cls : Option Byte) => off ∧ s.talliedOnce t 14 m cls ∧
        t = { s with poster := t.poster, counters := t.counters }
      let owes := fun i : RecIx => (s.key i).state = .out ∧ (s.key i).announced.toNat < (s.key i).level.toNat ∧
        s.params.announceFrom ≤ (s.key i).level.toNat
      let minuted := fun e : EntryIx => word t.byte (entryBase e + 20) = s.loans.minute
      (∀ m, c = .module m → (s.modEntry m).backMark = true →
        let lost := fun e => t.showsAlert e 12 3 0 0xFFFF 0xFFFF (ofIx m) ∧ minuted e
        let back := fun e => t.showsAlert e 13 1 0 0xFFFF 0xFFFF (ofIx m) ∧ minuted e
        ((s.modEntry m).lostMark = false →
          (∀ e, s.lowestFree e → t.modEntry m = { s.modEntry m with backMark := false } ∧ back e ∧ on ∧
            ∀ x, ¬ inBlock (entryBase e) 32 x → t.byte x = s.byte x) ∧
          (full → stopped (some m) none)) ∧
        ((s.modEntry m).lostMark = true →
          (∀ e e', both e e' → t.modEntry m = { s.modEntry m with lostMark := false, backMark := false } ∧ lost e ∧
            back e' ∧ on) ∧
          (∀ e, only e → t.modEntry m = { s.modEntry m with lostMark := false } ∧ lost e ∧ off ∧
            s.talliedOnce t 14 (some m) none) ∧
          (full → stopped (some m) none))) ∧
      (∀ k mark kind urgency, c = .slot k →
        (mark, kind, urgency) ∈ [(SlotMark.stranger, (8 : Byte), (2 : Byte)), (.wrongSlot, 9, 1), (.slotFault, 10, 2),
          (.latchFault, 11, 2)] →
        (∀ n, (s.slot k).mark n = true ↔ n = mark) →
        let r := s.slot k
        let key := if mark = .stranger then none else recOf r.key
        (∀ e, s.lowestFree e → t.slot k = r.setMark mark false ∧ on ∧ minuted e ∧
          t.showsAlert e kind urgency (if mark = .stranger then r.reason.code else 0) (ofIx k) (ofIx? key)
            (ofIx (moduleOf k)) ∧
          (mark = .stranger → word t.byte (entryBase e + 8) = r.fobSeen) ∧
          (∀ i, key = some i → t.showsFob e (s.key i)) ∧
          ∀ x, ¬ inBlock (entryBase e) 32 x → ¬ inBlock (slotBase k) 24 x → t.byte x = s.byte x) ∧
        (full → stopped (some (moduleOf k)) (key.map (fun i => (s.key i).cls)))) ∧
      (∀ i, c = .key i → (s.key i).state ≠ .unused →
        let r := s.key i
        let shows := fun (e : EntryIx) (kind urgency level : Byte) (slot : Option SlotIx) (lateness : Half) =>
          t.showsAlert e kind urgency level (ofIx? slot) (ofIx i) (ofIx? (slot.map moduleOf)) ∧ t.showsFob e r ∧
          word t.byte (entryBase e + 16) = r.agreement ∧ minuted e ∧ word t.byte (entryBase e + 24) = r.due ∧
          half t.byte (entryBase e + 30) = lateness ∧
          ∀ x, ¬ inBlock (entryBase e) 32 x → ¬ inBlock (keyBase i) 32 x → t.byte x = s.byte x
        (∀ mark kind urgency, ¬ owes i →
          (mark, kind, urgency) ∈ [(KeyMark.keyBack, (5 : Byte), (1 : Byte)), (.forcedRemoval, 6, 3),
            (.keyUnaccounted, 7, 3), (.returnedLate, 4, 1)] →
          (∀ n, r.mark n = true ↔ n = mark) →
          (∀ e, s.lowestFree e → t.key i = r.setMark mark false ∧ on ∧
            shows e kind urgency 0 (slotOf r.slot) (if mark = .returnedLate then r.lateness else 0)) ∧
          (full → stopped ((slotOf r.slot).map moduleOf) (some r.cls))) ∧
        (owes i → (∀ n, r.mark n = false) →
          let level := r.level.setWidth 8
          (∀ e, s.lowestFree e → t.key i = { r with announced := r.level } ∧ on ∧
            shows e level level level none
              (BitVec.ofNat 16 (min (s.loans.minute.toNat - r.due.toNat) 65535))) ∧
          (full → stopped none (some r.cls))))
end

