-- ==== Sys2Proof/Laws/Memory.lean ====
section
/-! SUPPORT. The Common Store's laws: what a read gives after a write, and that every write keeps the canonical form. -/

namespace Sys2Proof.Machine

/-! ## Reading after writing -/

theorem Memory.find_filter_some (m : Memory) (p : Host.Cell → Bool) (x : Nat)
    (hp : ∀ c ∈ m, c.1 = x → p c = true) :
    (m.filter p).find? (fun c => c.1 == x) = m.find? (fun c => c.1 == x) := by
  induction m with
  | nil => rfl
  | cons c m ih =>
    have ih := ih (fun d hd => hp d (List.mem_cons_of_mem c hd))
    by_cases hx : c.1 = x
    · simp [hx, hp c (List.mem_cons_self ..) hx]
    · by_cases h : p c = true
      · simp [hx, h, ih]
      · simp [hx, h, ih]

theorem Memory.find_filter_none (m : Memory) (p : Host.Cell → Bool) (x : Nat)
    (hp : ∀ c ∈ m, c.1 = x → p c = false) :
    (m.filter p).find? (fun c => c.1 == x) = none := by
  rw [List.find?_eq_none]
  intro c hc hx
  have := List.mem_filter.mp hc
  have h1 := hp c this.1 (by simpa using hx)
  simp [h1] at this

theorem Memory.find_listed_below (a : Nat) (bs : List Byte) (x : Nat) (h : x < a) :
    (Memory.listed a bs).find? (fun c => c.1 == x) = none := by
  induction bs generalizing a with
  | nil => rfl
  | cons b bs ih =>
    unfold Memory.listed
    split
    · exact ih (a + 1) (by omega)
    · have : (a == x) = false := by simp; omega
      simp [this, ih (a + 1) (by omega)]

theorem Memory.find_listed_above (a : Nat) (bs : List Byte) (x : Nat) (h : a + bs.length ≤ x) :
    (Memory.listed a bs).find? (fun c => c.1 == x) = none := by
  induction bs generalizing a with
  | nil => rfl
  | cons b bs ih =>
    simp only [List.length_cons] at h
    unfold Memory.listed
    split
    · exact ih (a + 1) (by omega)
    · have : (a == x) = false := by simp; omega
      simp [this, ih (a + 1) (by omega)]

theorem Memory.find_listed (a : Nat) (bs : List Byte) (n : Nat) (h : n < bs.length) :
    (Memory.listed a bs).find? (fun c => c.1 == a + n) =
      if bs[n] = clearedByte (a + n) then none else some (a + n, bs[n]) := by
  induction bs generalizing a n with
  | nil => simp at h
  | cons b bs ih =>
    cases n with
    | zero =>
      unfold Memory.listed
      by_cases hb : b = clearedByte a
      · simp [hb, Memory.find_listed_below (a + 1) bs a (by omega)]
      · simp [hb]
    | succ n =>
      have ih := ih (a + 1) n (by simpa using h)
      have e : a + 1 + n = a + (n + 1) := by omega
      rw [e] at ih
      unfold Memory.listed
      by_cases hb : b = clearedByte a
      · simp only [hb, if_true, List.getElem_cons_succ]; exact ih
      · have : (a == a + (n + 1)) = false := by simp
        simp only [hb, if_false, List.find?_cons, this, List.getElem_cons_succ]; exact ih

/-- A byte inside a written block reads as the byte written. -/
theorem Memory.read_write_inside (m : Memory) (a : Nat) (bs : List Byte) (n : Nat) (h : n < bs.length) :
    (m.write a bs).read (a + n) = bs[n] := by
  unfold Memory.read Memory.write
  rw [List.find?_append, List.find?_append, Memory.find_listed a bs n h,
    Memory.find_filter_none m (fun c => decide (c.1 < a)) (a + n) (by intro c _ hc; simp; omega),
    Memory.find_filter_none m (fun c => decide (a + bs.length ≤ c.1)) (a + n) (by intro c _ hc; simp; omega)]
  by_cases hb : bs[n] = clearedByte (a + n) <;> simp [hb]

/-- A byte outside a written block reads as before. -/
theorem Memory.read_write_outside (m : Memory) (a : Nat) (bs : List Byte) (x : Nat)
    (h : x < a ∨ a + bs.length ≤ x) : (m.write a bs).read x = m.read x := by
  unfold Memory.read Memory.write
  rw [List.find?_append, List.find?_append]
  rcases h with h | h
  · rw [Memory.find_listed_below a bs x h,
      Memory.find_filter_some m (fun c => decide (c.1 < a)) x (by intro c _ hc; simp; omega),
      Memory.find_filter_none m (fun c => decide (a + bs.length ≤ c.1)) x (by intro c _ hc; simp; omega)]
    cases m.find? (fun c => c.1 == x) <;> simp
  · rw [Memory.find_listed_above a bs x h,
      Memory.find_filter_none m (fun c => decide (c.1 < a)) x (by intro c _ hc; simp; omega),
      Memory.find_filter_some m (fun c => decide (a + bs.length ≤ c.1)) x (by intro c _ hc; simp; omega)]
    simp

/-! ## The canonical form -/

theorem Memory.mem_listed {a : Nat} {bs : List Byte} {c : Host.Cell} (h : c ∈ Memory.listed a bs) :
    a ≤ c.1 ∧ c.1 < a + bs.length ∧ c.2 ≠ clearedByte c.1 := by
  induction bs generalizing a with
  | nil => simp [Memory.listed] at h
  | cons b bs ih =>
    unfold Memory.listed at h
    split at h
    · have := ih h; simp only [List.length_cons]; exact ⟨by omega, by omega, this.2.2⟩
    · rename_i hb
      rcases List.mem_cons.mp h with rfl | h
      · simp only [List.length_cons]; exact ⟨Nat.le_refl _, by omega, hb⟩
      · have := ih h; simp only [List.length_cons]; exact ⟨by omega, by omega, this.2.2⟩

theorem Memory.listed_sorted (a : Nat) (bs : List Byte) : (Memory.listed a bs).Pairwise (fun c d => c.1 < d.1) := by
  induction bs generalizing a with
  | nil => simp [Memory.listed]
  | cons b bs ih =>
    unfold Memory.listed
    split
    · exact ih (a + 1)
    · exact List.Pairwise.cons (fun c hc => by have := Memory.mem_listed hc; simp; omega) (ih (a + 1))

/-- Every write keeps the canonical form. -/
theorem Memory.write_wf {m : Memory} (h : m.wf) (a : Nat) (bs : List Byte) : (m.write a bs).wf := by
  constructor
  · unfold Memory.write
    rw [List.pairwise_append, List.pairwise_append]
    refine ⟨h.1.filter _, ⟨Memory.listed_sorted a bs, h.1.filter _, ?_⟩, ?_⟩
    · intro c hc d hd
      have h1 := Memory.mem_listed hc
      have h2 := (List.mem_filter.mp hd).2
      simp at h2; omega
    · intro c hc d hd
      have h1 := (List.mem_filter.mp hc).2
      simp at h1
      rcases List.mem_append.mp hd with hd | hd
      · have := Memory.mem_listed hd; omega
      · have h2 := (List.mem_filter.mp hd).2
        simp at h2; omega
  · intro c hc
    unfold Memory.write at hc
    rcases List.mem_append.mp hc with hc | hc
    · exact h.2 c (List.mem_filter.mp hc).1
    · rcases List.mem_append.mp hc with hc | hc
      · exact (Memory.mem_listed hc).2.2
      · exact h.2 c (List.mem_filter.mp hc).1

/-- The empty store has the canonical form, and reset lists nothing. -/
theorem Memory.wf_nil : Memory.wf [] := ⟨List.Pairwise.nil, by simp⟩

/-! ## The store of a state -/

/-- A byte inside a written block of the store reads as the byte written. -/
theorem State.byte_writeStore_inside (s : State) (a : Nat) (bs : List Byte) (n : Nat) (h : n < bs.length) :
    (s.writeStore a bs).byte (a + n) = bs[n] := Memory.read_write_inside s.store a bs n h

/-- A byte outside a written block of the store reads as before. -/
theorem State.byte_writeStore_outside (s : State) (a : Nat) (bs : List Byte) (x : Nat)
    (h : x < a ∨ a + bs.length ≤ x) : (s.writeStore a bs).byte x = s.byte x :=
  Memory.read_write_outside s.store a bs x h

end Sys2Proof.Machine
end

