-- ==== Sys2Proof/Laws/Records.lean ====
section
/-! SUPPORT. The records of the Common Store: a record written is read back as it was, and writing one element leaves every
other element as it is. -/

namespace Sys2Proof.Machine

/-! ## Fields -/

theorem half_le16 (h : Half) : h.extractLsb' 8 8 ++ h.extractLsb' 0 8 = h := by
  apply BitVec.eq_of_getLsbD_eq
  intro i hi
  simp only [BitVec.getLsbD_append, BitVec.getLsbD_extractLsb']
  by_cases h8 : i < 8
  · simp [h8]
  · simp [h8, show 8 + (i - 8) = i by omega, show i - 8 < 8 by omega]

theorem word_le32 (w : Word) :
    w.extractLsb' 24 8 ++ w.extractLsb' 16 8 ++ w.extractLsb' 8 8 ++ w.extractLsb' 0 8 = w := by
  apply BitVec.eq_of_getLsbD_eq
  intro i hi
  simp only [BitVec.getLsbD_append, BitVec.getLsbD_extractLsb']
  by_cases h8 : i < 8
  · simp [h8]
  · by_cases h16 : i < 16
    · simp [h8, show 8 + (i - 8) = i by omega, show i - 8 < 8 by omega]
    · by_cases h24 : i < 24
      · simp [h8, show ¬ i - 8 < 8 by omega, show i - 8 - 8 < 8 by omega, show 16 + (i - 8 - 8) = i by omega]
      · simp [h8, show ¬ i - 8 < 8 by omega, show ¬ i - 8 - 8 < 8 by omega, show i - 8 - 8 - 8 < 8 by omega,
          show 24 + (i - 8 - 8 - 8) = i by omega]

theorem nibbles_join (h l : BitVec 4) : (h ++ l).extractLsb' 0 4 = l ∧ (h ++ l).extractLsb' 4 4 = h := by
  constructor <;> apply BitVec.eq_of_getLsbD_eq <;> intro i hi
  · simp only [BitVec.getLsbD_extractLsb', BitVec.getLsbD_append]; simp [hi]
  · simp only [BitVec.getLsbD_extractLsb', BitVec.getLsbD_append]; simp [hi]

theorem flag_flagByte (b0 b1 b2 b3 b4 b5 b6 b7 : Bool) :
    flag (flagByte b0 b1 b2 b3 b4 b5 b6 b7) 0 = b0 ∧ flag (flagByte b0 b1 b2 b3 b4 b5 b6 b7) 1 = b1 ∧
    flag (flagByte b0 b1 b2 b3 b4 b5 b6 b7) 2 = b2 ∧ flag (flagByte b0 b1 b2 b3 b4 b5 b6 b7) 3 = b3 ∧
    flag (flagByte b0 b1 b2 b3 b4 b5 b6 b7) 4 = b4 ∧ flag (flagByte b0 b1 b2 b3 b4 b5 b6 b7) 5 = b5 ∧
    flag (flagByte b0 b1 b2 b3 b4 b5 b6 b7) 6 = b6 ∧ flag (flagByte b0 b1 b2 b3 b4 b5 b6 b7) 7 = b7 := by
  revert b0 b1 b2 b3 b4 b5 b6 b7; decide

theorem Custody.ofCode_code (c : Custody) : Custody.ofCode c.code = c := by cases c <;> rfl
theorem SlotState.ofCode_code (c : SlotState) : SlotState.ofCode c.code = c := by cases c <;> rfl
theorem Latch.ofCode_code (c : Latch) : Latch.ofCode c.code = c := by cases c <;> rfl
theorem Lamp.ofCode_code (c : Lamp) : Lamp.ofCode c.code = c := by cases c <;> rfl
theorem Reason.ofBits_bits (c : Reason) : Reason.ofBits (c = .unreadable) (c = .duplicate) = c := by cases c <;> rfl

/-! ## Records -/

theorem SlotRec.encode_length (r : SlotRec) : r.encode.length = 24 := rfl

theorem KeyRec.encode_length (r : KeyRec) : r.encode.length = 32 := rfl

/-- A slot record's bytes hold the record. -/
theorem SlotRec.decode_encode (r : SlotRec) (f : Nat → Byte) (h : ∀ n (hn : n < 24), f n = r.encode[n]) :
    SlotRec.decode f = r := by
  have e := flag_flagByte r.decided r.pinned r.surveyFound r.learned (r.reason = .unreadable) (r.reason = .duplicate)
    false false
  have m := flag_flagByte r.markStranger r.markWrongSlot r.markSlotFault r.markLatchFault false false false false
  unfold SlotRec.decode half word
  rw [h 0 (by omega), h 1 (by omega), h 2 (by omega), h 3 (by omega), h 4 (by omega), h (4 + 1) (by omega),
    h 6 (by omega), h (6 + 1) (by omega), h 8 (by omega), h (8 + 1) (by omega), h (8 + 2) (by omega),
    h (8 + 3) (by omega), h 12 (by omega), h (12 + 1) (by omega), h 14 (by omega), h (14 + 1) (by omega),
    h (14 + 2) (by omega), h (14 + 3) (by omega), h 18 (by omega), h (18 + 1) (by omega), h (18 + 2) (by omega),
    h (18 + 3) (by omega), h 22 (by omega), h 23 (by omega)]
  show SlotRec.mk (SlotState.ofCode r.state.code) (Latch.ofCode r.latch.code) (Lamp.ofCode r.lamp.code) _ _ _ _ _
    (r.baseline.extractLsb' 8 8 ++ r.baseline.extractLsb' 0 8) (r.raw.extractLsb' 8 8 ++ r.raw.extractLsb' 0 8)
    (r.history.extractLsb' 24 8 ++ r.history.extractLsb' 16 8 ++ r.history.extractLsb' 8 8 ++ r.history.extractLsb' 0 8)
    (r.key.extractLsb' 8 8 ++ r.key.extractLsb' 0 8)
    (r.fobSeen.extractLsb' 24 8 ++ r.fobSeen.extractLsb' 16 8 ++ r.fobSeen.extractLsb' 8 8 ++ r.fobSeen.extractLsb' 0 8)
    (r.pinnedFob.extractLsb' 24 8 ++ r.pinnedFob.extractLsb' 16 8 ++ r.pinnedFob.extractLsb' 8 8 ++
      r.pinnedFob.extractLsb' 0 8) _ _ _ _ r.attempts = r
  rw [half_le16, half_le16, half_le16, word_le32, word_le32, word_le32, SlotState.ofCode_code, Latch.ofCode_code,
    Lamp.ofCode_code]
  show SlotRec.mk _ _ _ (flag (flagByte _ _ _ _ _ _ _ _) 0) (flag (flagByte _ _ _ _ _ _ _ _) 1)
    (flag (flagByte _ _ _ _ _ _ _ _) 2) (flag (flagByte _ _ _ _ _ _ _ _) 3)
    (Reason.ofBits (flag (flagByte _ _ _ _ _ _ _ _) 4) (flag (flagByte _ _ _ _ _ _ _ _) 5)) _ _ _ _ _ _
    (flag (flagByte _ _ _ _ _ _ _ _) 0) (flag (flagByte _ _ _ _ _ _ _ _) 1) (flag (flagByte _ _ _ _ _ _ _ _) 2)
    (flag (flagByte _ _ _ _ _ _ _ _) 3) _ = r
  rw [e.1, e.2.1, e.2.2.1, e.2.2.2.1, e.2.2.2.2.1, e.2.2.2.2.2.1, m.1, m.2.1, m.2.2.1, m.2.2.2.1, Reason.ofBits_bits]

/-- A key record's bytes hold the record. -/
theorem KeyRec.decode_encode (r : KeyRec) (f : Nat → Byte) (h : ∀ n (hn : n < 32), f n = r.encode[n]) :
    KeyRec.decode f = r := by
  have e := flag_flagByte r.armed false false false r.keyBack r.forcedRemoval r.keyUnaccounted r.returnedLate
  unfold KeyRec.decode half word
  rw [h 0 (by omega), h 1 (by omega), h 2 (by omega), h 3 (by omega), h 4 (by omega), h (4 + 1) (by omega),
    h 6 (by omega), h (6 + 1) (by omega), h 8 (by omega), h (8 + 1) (by omega), h (8 + 2) (by omega),
    h (8 + 3) (by omega), h 12 (by omega), h (12 + 1) (by omega), h (12 + 2) (by omega), h (12 + 3) (by omega),
    h 16 (by omega), h (16 + 1) (by omega), h (16 + 2) (by omega), h (16 + 3) (by omega), h 20 (by omega),
    h (20 + 1) (by omega), h (20 + 2) (by omega), h (20 + 3) (by omega), h 24 (by omega), h (24 + 1) (by omega),
    h (24 + 2) (by omega), h (24 + 3) (by omega), h 28 (by omega), h (28 + 1) (by omega), h 30 (by omega),
    h (30 + 1) (by omega)]
  show KeyRec.mk (Custody.ofCode r.state.code) (flag (flagByte _ _ _ _ _ _ _ _) 0) (flag (flagByte _ _ _ _ _ _ _ _) 4)
    (flag (flagByte _ _ _ _ _ _ _ _) 5) (flag (flagByte _ _ _ _ _ _ _ _) 6) (flag (flagByte _ _ _ _ _ _ _ _) 7) r.cls
    ((r.announced ++ r.level).extractLsb' 0 4) ((r.announced ++ r.level).extractLsb' 4 4)
    (r.next.extractLsb' 8 8 ++ r.next.extractLsb' 0 8) (r.slot.extractLsb' 8 8 ++ r.slot.extractLsb' 0 8)
    (r.fob.extractLsb' 24 8 ++ r.fob.extractLsb' 16 8 ++ r.fob.extractLsb' 8 8 ++ r.fob.extractLsb' 0 8)
    (r.vehicle.extractLsb' 24 8 ++ r.vehicle.extractLsb' 16 8 ++ r.vehicle.extractLsb' 8 8 ++ r.vehicle.extractLsb' 0 8)
    (r.agreement.extractLsb' 24 8 ++ r.agreement.extractLsb' 16 8 ++ r.agreement.extractLsb' 8 8 ++
      r.agreement.extractLsb' 0 8)
    (r.handOut.extractLsb' 24 8 ++ r.handOut.extractLsb' 16 8 ++ r.handOut.extractLsb' 8 8 ++ r.handOut.extractLsb' 0 8)
    (r.due.extractLsb' 24 8 ++ r.due.extractLsb' 16 8 ++ r.due.extractLsb' 8 8 ++ r.due.extractLsb' 0 8)
    (r.lateness.extractLsb' 8 8 ++ r.lateness.extractLsb' 0 8)
    (r.closedLoans.extractLsb' 8 8 ++ r.closedLoans.extractLsb' 0 8) = r
  rw [half_le16, half_le16, half_le16, half_le16, word_le32, word_le32, word_le32, word_le32, word_le32,
    Custody.ofCode_code, (nibbles_join r.announced r.level).1, (nibbles_join r.announced r.level).2, e.1, e.2.2.2.2.1,
    e.2.2.2.2.2.1, e.2.2.2.2.2.2.1, e.2.2.2.2.2.2.2]

/-! ## Elements of the store -/

/-- A written slot record reads back. -/
@[simp] theorem State.slot_setSlot (s : State) (k : SlotIx) (r : SlotRec) : (s.setSlot k r).slot k = r := by
  apply SlotRec.decode_encode
  intro n hn
  exact State.byte_writeStore_inside s (slotBase k) r.encode n hn

/-- A written key record reads back. -/
@[simp] theorem State.key_setKey (s : State) (i : RecIx) (r : KeyRec) : (s.setKey i r).key i = r := by
  apply KeyRec.decode_encode
  intro n hn
  exact State.byte_writeStore_inside s (keyBase i) r.encode n hn

/-- A write of bytes outside a slot record leaves it. -/
theorem State.slot_writeStore (s : State) (a : Nat) (bs : List Byte) (k : SlotIx)
    (h : slotBase k + 24 ≤ a ∨ a + bs.length ≤ slotBase k) : (s.writeStore a bs).slot k = s.slot k := by
  have e : ∀ n, n < 24 → (s.writeStore a bs).byte (slotBase k + n) = s.byte (slotBase k + n) := fun n hn =>
    State.byte_writeStore_outside s a bs _ (by omega)
  unfold State.slot SlotRec.decode half word
  simp only [e, Nat.reduceAdd, Nat.reduceLT]

/-- A write of bytes outside a key record leaves it. -/
theorem State.key_writeStore (s : State) (a : Nat) (bs : List Byte) (i : RecIx)
    (h : keyBase i + 32 ≤ a ∨ a + bs.length ≤ keyBase i) : (s.writeStore a bs).key i = s.key i := by
  have e : ∀ n, n < 32 → (s.writeStore a bs).byte (keyBase i + n) = s.byte (keyBase i + n) := fun n hn =>
    State.byte_writeStore_outside s a bs _ (by omega)
  unfold State.key KeyRec.decode half word
  simp only [e, Nat.reduceAdd, Nat.reduceLT]

/-- Writing a slot record leaves every other. -/
theorem State.slot_setSlot_ne (s : State) {k j : SlotIx} (h : j ≠ k) (r : SlotRec) : (s.setSlot k r).slot j = s.slot j := by
  apply State.slot_writeStore
  have : j.val ≠ k.val := fun e => h (Fin.ext e)
  rw [SlotRec.encode_length]; unfold slotBase; omega

/-- Writing a key record leaves every other. -/
theorem State.key_setKey_ne (s : State) {i j : RecIx} (h : j ≠ i) (r : KeyRec) : (s.setKey i r).key j = s.key j := by
  apply State.key_writeStore
  have : j.val ≠ i.val := fun e => h (Fin.ext e)
  rw [KeyRec.encode_length]; unfold keyBase; omega

/-- Writing a slot record leaves every key record. -/
@[simp] theorem State.key_setSlot (s : State) (k : SlotIx) (r : SlotRec) (i : RecIx) : (s.setSlot k r).key i = s.key i := by
  apply State.key_writeStore
  rw [SlotRec.encode_length]; unfold slotBase keyBase; omega

/-- Writing a key record leaves every slot record. -/
@[simp] theorem State.slot_setKey (s : State) (i : RecIx) (r : KeyRec) (k : SlotIx) : (s.setKey i r).slot k = s.slot k := by
  apply State.slot_writeStore
  rw [KeyRec.encode_length]; unfold slotBase keyBase; omega

/-- Writing a cell's bytes leaves every slot record. -/
theorem State.slot_writeCell (s : State) (c : CellIx) (n : Nat) (bs : List Byte) (k : SlotIx) (h : n + bs.length ≤ 64) :
    (s.writeCell c n bs).slot k = s.slot k := by
  apply State.slot_writeStore
  unfold slotBase cellBase; omega

/-- Writing a cell's bytes leaves every key record. -/
theorem State.key_writeCell (s : State) (c : CellIx) (n : Nat) (bs : List Byte) (i : RecIx) (h : n + bs.length ≤ 64) :
    (s.writeCell c n bs).key i = s.key i := by
  apply State.key_writeStore
  unfold keyBase cellBase; omega

end Sys2Proof.Machine
end

