-- ==== Sys2Proof/Laws/State.lean ====
section
/-! SUPPORT. What each update of the state leaves as it is: one lemma per update and field, and the named field each update
writes. -/

namespace Sys2Proof.Machine

/-! ## `State.writeStore` -/

@[simp] theorem State.writeStore_pending (s : State) (a : Nat) (bs : List Byte) : (s.writeStore a bs).pending = s.pending := rfl
@[simp] theorem State.writeStore_phase (s : State) (a : Nat) (bs : List Byte) : (s.writeStore a bs).phase = s.phase := rfl
@[simp] theorem State.writeStore_port (s : State) (a : Nat) (bs : List Byte) : (s.writeStore a bs).port = s.port := rfl
@[simp] theorem State.writeStore_board (s : State) (a : Nat) (bs : List Byte) : (s.writeStore a bs).board = s.board := rfl
@[simp] theorem State.writeStore_walker (s : State) (a : Nat) (bs : List Byte) : (s.writeStore a bs).walker = s.walker := rfl
@[simp] theorem State.writeStore_mlc (s : State) (a : Nat) (bs : List Byte) : (s.writeStore a bs).mlc = s.mlc := rfl
@[simp] theorem State.writeStore_chips (s : State) (a : Nat) (bs : List Byte) : (s.writeStore a bs).chips = s.chips := rfl
@[simp] theorem State.writeStore_heldSlots (s : State) (a : Nat) (bs : List Byte) : (s.writeStore a bs).heldSlots = s.heldSlots := rfl
@[simp] theorem State.writeStore_emptySlots (s : State) (a : Nat) (bs : List Byte) : (s.writeStore a bs).emptySlots = s.emptySlots := rfl
@[simp] theorem State.writeStore_release (s : State) (a : Nat) (bs : List Byte) : (s.writeStore a bs).release = s.release := rfl
@[simp] theorem State.writeStore_loans (s : State) (a : Nat) (bs : List Byte) : (s.writeStore a bs).loans = s.loans := rfl
@[simp] theorem State.writeStore_poster (s : State) (a : Nat) (bs : List Byte) : (s.writeStore a bs).poster = s.poster := rfl
@[simp] theorem State.writeStore_counters (s : State) (a : Nat) (bs : List Byte) : (s.writeStore a bs).counters = s.counters := rfl
@[simp] theorem State.writeStore_params (s : State) (a : Nat) (bs : List Byte) : (s.writeStore a bs).params = s.params := rfl

/-! ## `State.setSlot` -/

@[simp] theorem State.setSlot_pending (s : State) (k : SlotIx) (r : SlotRec) : (s.setSlot k r).pending = s.pending := rfl
@[simp] theorem State.setSlot_phase (s : State) (k : SlotIx) (r : SlotRec) : (s.setSlot k r).phase = s.phase := rfl
@[simp] theorem State.setSlot_port (s : State) (k : SlotIx) (r : SlotRec) : (s.setSlot k r).port = s.port := rfl
@[simp] theorem State.setSlot_board (s : State) (k : SlotIx) (r : SlotRec) : (s.setSlot k r).board = s.board := rfl
@[simp] theorem State.setSlot_walker (s : State) (k : SlotIx) (r : SlotRec) : (s.setSlot k r).walker = s.walker := rfl
@[simp] theorem State.setSlot_mlc (s : State) (k : SlotIx) (r : SlotRec) : (s.setSlot k r).mlc = s.mlc := rfl
@[simp] theorem State.setSlot_chips (s : State) (k : SlotIx) (r : SlotRec) : (s.setSlot k r).chips = s.chips := rfl
@[simp] theorem State.setSlot_heldSlots (s : State) (k : SlotIx) (r : SlotRec) : (s.setSlot k r).heldSlots = s.heldSlots := rfl
@[simp] theorem State.setSlot_emptySlots (s : State) (k : SlotIx) (r : SlotRec) : (s.setSlot k r).emptySlots = s.emptySlots := rfl
@[simp] theorem State.setSlot_release (s : State) (k : SlotIx) (r : SlotRec) : (s.setSlot k r).release = s.release := rfl
@[simp] theorem State.setSlot_loans (s : State) (k : SlotIx) (r : SlotRec) : (s.setSlot k r).loans = s.loans := rfl
@[simp] theorem State.setSlot_poster (s : State) (k : SlotIx) (r : SlotRec) : (s.setSlot k r).poster = s.poster := rfl
@[simp] theorem State.setSlot_counters (s : State) (k : SlotIx) (r : SlotRec) : (s.setSlot k r).counters = s.counters := rfl
@[simp] theorem State.setSlot_params (s : State) (k : SlotIx) (r : SlotRec) : (s.setSlot k r).params = s.params := rfl

/-! ## `State.modSlot` -/

@[simp] theorem State.modSlot_pending (s : State) (k : SlotIx) (f : SlotRec → SlotRec) : (s.modSlot k f).pending = s.pending := rfl
@[simp] theorem State.modSlot_phase (s : State) (k : SlotIx) (f : SlotRec → SlotRec) : (s.modSlot k f).phase = s.phase := rfl
@[simp] theorem State.modSlot_port (s : State) (k : SlotIx) (f : SlotRec → SlotRec) : (s.modSlot k f).port = s.port := rfl
@[simp] theorem State.modSlot_board (s : State) (k : SlotIx) (f : SlotRec → SlotRec) : (s.modSlot k f).board = s.board := rfl
@[simp] theorem State.modSlot_walker (s : State) (k : SlotIx) (f : SlotRec → SlotRec) : (s.modSlot k f).walker = s.walker := rfl
@[simp] theorem State.modSlot_mlc (s : State) (k : SlotIx) (f : SlotRec → SlotRec) : (s.modSlot k f).mlc = s.mlc := rfl
@[simp] theorem State.modSlot_chips (s : State) (k : SlotIx) (f : SlotRec → SlotRec) : (s.modSlot k f).chips = s.chips := rfl
@[simp] theorem State.modSlot_heldSlots (s : State) (k : SlotIx) (f : SlotRec → SlotRec) : (s.modSlot k f).heldSlots = s.heldSlots := rfl
@[simp] theorem State.modSlot_emptySlots (s : State) (k : SlotIx) (f : SlotRec → SlotRec) : (s.modSlot k f).emptySlots = s.emptySlots := rfl
@[simp] theorem State.modSlot_release (s : State) (k : SlotIx) (f : SlotRec → SlotRec) : (s.modSlot k f).release = s.release := rfl
@[simp] theorem State.modSlot_loans (s : State) (k : SlotIx) (f : SlotRec → SlotRec) : (s.modSlot k f).loans = s.loans := rfl
@[simp] theorem State.modSlot_poster (s : State) (k : SlotIx) (f : SlotRec → SlotRec) : (s.modSlot k f).poster = s.poster := rfl
@[simp] theorem State.modSlot_counters (s : State) (k : SlotIx) (f : SlotRec → SlotRec) : (s.modSlot k f).counters = s.counters := rfl
@[simp] theorem State.modSlot_params (s : State) (k : SlotIx) (f : SlotRec → SlotRec) : (s.modSlot k f).params = s.params := rfl

/-! ## `State.setKey` -/

@[simp] theorem State.setKey_pending (s : State) (i : RecIx) (r : KeyRec) : (s.setKey i r).pending = s.pending := rfl
@[simp] theorem State.setKey_phase (s : State) (i : RecIx) (r : KeyRec) : (s.setKey i r).phase = s.phase := rfl
@[simp] theorem State.setKey_port (s : State) (i : RecIx) (r : KeyRec) : (s.setKey i r).port = s.port := rfl
@[simp] theorem State.setKey_board (s : State) (i : RecIx) (r : KeyRec) : (s.setKey i r).board = s.board := rfl
@[simp] theorem State.setKey_walker (s : State) (i : RecIx) (r : KeyRec) : (s.setKey i r).walker = s.walker := rfl
@[simp] theorem State.setKey_mlc (s : State) (i : RecIx) (r : KeyRec) : (s.setKey i r).mlc = s.mlc := rfl
@[simp] theorem State.setKey_chips (s : State) (i : RecIx) (r : KeyRec) : (s.setKey i r).chips = s.chips := rfl
@[simp] theorem State.setKey_heldSlots (s : State) (i : RecIx) (r : KeyRec) : (s.setKey i r).heldSlots = s.heldSlots := rfl
@[simp] theorem State.setKey_emptySlots (s : State) (i : RecIx) (r : KeyRec) : (s.setKey i r).emptySlots = s.emptySlots := rfl
@[simp] theorem State.setKey_release (s : State) (i : RecIx) (r : KeyRec) : (s.setKey i r).release = s.release := rfl
@[simp] theorem State.setKey_loans (s : State) (i : RecIx) (r : KeyRec) : (s.setKey i r).loans = s.loans := rfl
@[simp] theorem State.setKey_poster (s : State) (i : RecIx) (r : KeyRec) : (s.setKey i r).poster = s.poster := rfl
@[simp] theorem State.setKey_counters (s : State) (i : RecIx) (r : KeyRec) : (s.setKey i r).counters = s.counters := rfl
@[simp] theorem State.setKey_params (s : State) (i : RecIx) (r : KeyRec) : (s.setKey i r).params = s.params := rfl

/-! ## `State.modKey` -/

@[simp] theorem State.modKey_pending (s : State) (i : RecIx) (f : KeyRec → KeyRec) : (s.modKey i f).pending = s.pending := rfl
@[simp] theorem State.modKey_phase (s : State) (i : RecIx) (f : KeyRec → KeyRec) : (s.modKey i f).phase = s.phase := rfl
@[simp] theorem State.modKey_port (s : State) (i : RecIx) (f : KeyRec → KeyRec) : (s.modKey i f).port = s.port := rfl
@[simp] theorem State.modKey_board (s : State) (i : RecIx) (f : KeyRec → KeyRec) : (s.modKey i f).board = s.board := rfl
@[simp] theorem State.modKey_walker (s : State) (i : RecIx) (f : KeyRec → KeyRec) : (s.modKey i f).walker = s.walker := rfl
@[simp] theorem State.modKey_mlc (s : State) (i : RecIx) (f : KeyRec → KeyRec) : (s.modKey i f).mlc = s.mlc := rfl
@[simp] theorem State.modKey_chips (s : State) (i : RecIx) (f : KeyRec → KeyRec) : (s.modKey i f).chips = s.chips := rfl
@[simp] theorem State.modKey_heldSlots (s : State) (i : RecIx) (f : KeyRec → KeyRec) : (s.modKey i f).heldSlots = s.heldSlots := rfl
@[simp] theorem State.modKey_emptySlots (s : State) (i : RecIx) (f : KeyRec → KeyRec) : (s.modKey i f).emptySlots = s.emptySlots := rfl
@[simp] theorem State.modKey_release (s : State) (i : RecIx) (f : KeyRec → KeyRec) : (s.modKey i f).release = s.release := rfl
@[simp] theorem State.modKey_loans (s : State) (i : RecIx) (f : KeyRec → KeyRec) : (s.modKey i f).loans = s.loans := rfl
@[simp] theorem State.modKey_poster (s : State) (i : RecIx) (f : KeyRec → KeyRec) : (s.modKey i f).poster = s.poster := rfl
@[simp] theorem State.modKey_counters (s : State) (i : RecIx) (f : KeyRec → KeyRec) : (s.modKey i f).counters = s.counters := rfl
@[simp] theorem State.modKey_params (s : State) (i : RecIx) (f : KeyRec → KeyRec) : (s.modKey i f).params = s.params := rfl

/-! ## `State.setHome` -/

@[simp] theorem State.setHome_pending (s : State) (h : Nat) (v : Half) : (s.setHome h v).pending = s.pending := rfl
@[simp] theorem State.setHome_phase (s : State) (h : Nat) (v : Half) : (s.setHome h v).phase = s.phase := rfl
@[simp] theorem State.setHome_port (s : State) (h : Nat) (v : Half) : (s.setHome h v).port = s.port := rfl
@[simp] theorem State.setHome_board (s : State) (h : Nat) (v : Half) : (s.setHome h v).board = s.board := rfl
@[simp] theorem State.setHome_walker (s : State) (h : Nat) (v : Half) : (s.setHome h v).walker = s.walker := rfl
@[simp] theorem State.setHome_mlc (s : State) (h : Nat) (v : Half) : (s.setHome h v).mlc = s.mlc := rfl
@[simp] theorem State.setHome_chips (s : State) (h : Nat) (v : Half) : (s.setHome h v).chips = s.chips := rfl
@[simp] theorem State.setHome_heldSlots (s : State) (h : Nat) (v : Half) : (s.setHome h v).heldSlots = s.heldSlots := rfl
@[simp] theorem State.setHome_emptySlots (s : State) (h : Nat) (v : Half) : (s.setHome h v).emptySlots = s.emptySlots := rfl
@[simp] theorem State.setHome_release (s : State) (h : Nat) (v : Half) : (s.setHome h v).release = s.release := rfl
@[simp] theorem State.setHome_loans (s : State) (h : Nat) (v : Half) : (s.setHome h v).loans = s.loans := rfl
@[simp] theorem State.setHome_poster (s : State) (h : Nat) (v : Half) : (s.setHome h v).poster = s.poster := rfl
@[simp] theorem State.setHome_counters (s : State) (h : Nat) (v : Half) : (s.setHome h v).counters = s.counters := rfl
@[simp] theorem State.setHome_params (s : State) (h : Nat) (v : Half) : (s.setHome h v).params = s.params := rfl

/-! ## `State.writeCell` -/

@[simp] theorem State.writeCell_pending (s : State) (c : CellIx) (n : Nat) (bs : List Byte) : (s.writeCell c n bs).pending = s.pending := rfl
@[simp] theorem State.writeCell_phase (s : State) (c : CellIx) (n : Nat) (bs : List Byte) : (s.writeCell c n bs).phase = s.phase := rfl
@[simp] theorem State.writeCell_port (s : State) (c : CellIx) (n : Nat) (bs : List Byte) : (s.writeCell c n bs).port = s.port := rfl
@[simp] theorem State.writeCell_board (s : State) (c : CellIx) (n : Nat) (bs : List Byte) : (s.writeCell c n bs).board = s.board := rfl
@[simp] theorem State.writeCell_walker (s : State) (c : CellIx) (n : Nat) (bs : List Byte) : (s.writeCell c n bs).walker = s.walker := rfl
@[simp] theorem State.writeCell_mlc (s : State) (c : CellIx) (n : Nat) (bs : List Byte) : (s.writeCell c n bs).mlc = s.mlc := rfl
@[simp] theorem State.writeCell_chips (s : State) (c : CellIx) (n : Nat) (bs : List Byte) : (s.writeCell c n bs).chips = s.chips := rfl
@[simp] theorem State.writeCell_heldSlots (s : State) (c : CellIx) (n : Nat) (bs : List Byte) : (s.writeCell c n bs).heldSlots = s.heldSlots := rfl
@[simp] theorem State.writeCell_emptySlots (s : State) (c : CellIx) (n : Nat) (bs : List Byte) : (s.writeCell c n bs).emptySlots = s.emptySlots := rfl
@[simp] theorem State.writeCell_release (s : State) (c : CellIx) (n : Nat) (bs : List Byte) : (s.writeCell c n bs).release = s.release := rfl
@[simp] theorem State.writeCell_loans (s : State) (c : CellIx) (n : Nat) (bs : List Byte) : (s.writeCell c n bs).loans = s.loans := rfl
@[simp] theorem State.writeCell_poster (s : State) (c : CellIx) (n : Nat) (bs : List Byte) : (s.writeCell c n bs).poster = s.poster := rfl
@[simp] theorem State.writeCell_counters (s : State) (c : CellIx) (n : Nat) (bs : List Byte) : (s.writeCell c n bs).counters = s.counters := rfl
@[simp] theorem State.writeCell_params (s : State) (c : CellIx) (n : Nat) (bs : List Byte) : (s.writeCell c n bs).params = s.params := rfl

/-! ## `State.modChip` -/

@[simp] theorem State.modChip_pending (s : State) (k : SlotIx) (f : Chip → Chip) : (s.modChip k f).pending = s.pending := rfl
@[simp] theorem State.modChip_store (s : State) (k : SlotIx) (f : Chip → Chip) : (s.modChip k f).store = s.store := rfl
@[simp] theorem State.modChip_phase (s : State) (k : SlotIx) (f : Chip → Chip) : (s.modChip k f).phase = s.phase := rfl
@[simp] theorem State.modChip_port (s : State) (k : SlotIx) (f : Chip → Chip) : (s.modChip k f).port = s.port := rfl
@[simp] theorem State.modChip_board (s : State) (k : SlotIx) (f : Chip → Chip) : (s.modChip k f).board = s.board := rfl
@[simp] theorem State.modChip_walker (s : State) (k : SlotIx) (f : Chip → Chip) : (s.modChip k f).walker = s.walker := rfl
@[simp] theorem State.modChip_mlc (s : State) (k : SlotIx) (f : Chip → Chip) : (s.modChip k f).mlc = s.mlc := rfl
@[simp] theorem State.modChip_heldSlots (s : State) (k : SlotIx) (f : Chip → Chip) : (s.modChip k f).heldSlots = s.heldSlots := rfl
@[simp] theorem State.modChip_emptySlots (s : State) (k : SlotIx) (f : Chip → Chip) : (s.modChip k f).emptySlots = s.emptySlots := rfl
@[simp] theorem State.modChip_release (s : State) (k : SlotIx) (f : Chip → Chip) : (s.modChip k f).release = s.release := rfl
@[simp] theorem State.modChip_loans (s : State) (k : SlotIx) (f : Chip → Chip) : (s.modChip k f).loans = s.loans := rfl
@[simp] theorem State.modChip_poster (s : State) (k : SlotIx) (f : Chip → Chip) : (s.modChip k f).poster = s.poster := rfl
@[simp] theorem State.modChip_counters (s : State) (k : SlotIx) (f : Chip → Chip) : (s.modChip k f).counters = s.counters := rfl
@[simp] theorem State.modChip_params (s : State) (k : SlotIx) (f : Chip → Chip) : (s.modChip k f).params = s.params := rfl

/-! ## `State.setStep` -/

@[simp] theorem State.setStep_pending (s : State) (k : SlotIx) (x : IdStep) : (s.setStep k x).pending = s.pending := rfl
@[simp] theorem State.setStep_store (s : State) (k : SlotIx) (x : IdStep) : (s.setStep k x).store = s.store := rfl
@[simp] theorem State.setStep_phase (s : State) (k : SlotIx) (x : IdStep) : (s.setStep k x).phase = s.phase := rfl
@[simp] theorem State.setStep_port (s : State) (k : SlotIx) (x : IdStep) : (s.setStep k x).port = s.port := rfl
@[simp] theorem State.setStep_board (s : State) (k : SlotIx) (x : IdStep) : (s.setStep k x).board = s.board := rfl
@[simp] theorem State.setStep_walker (s : State) (k : SlotIx) (x : IdStep) : (s.setStep k x).walker = s.walker := rfl
@[simp] theorem State.setStep_mlc (s : State) (k : SlotIx) (x : IdStep) : (s.setStep k x).mlc = s.mlc := rfl
@[simp] theorem State.setStep_heldSlots (s : State) (k : SlotIx) (x : IdStep) : (s.setStep k x).heldSlots = s.heldSlots := rfl
@[simp] theorem State.setStep_emptySlots (s : State) (k : SlotIx) (x : IdStep) : (s.setStep k x).emptySlots = s.emptySlots := rfl
@[simp] theorem State.setStep_release (s : State) (k : SlotIx) (x : IdStep) : (s.setStep k x).release = s.release := rfl
@[simp] theorem State.setStep_loans (s : State) (k : SlotIx) (x : IdStep) : (s.setStep k x).loans = s.loans := rfl
@[simp] theorem State.setStep_poster (s : State) (k : SlotIx) (x : IdStep) : (s.setStep k x).poster = s.poster := rfl
@[simp] theorem State.setStep_counters (s : State) (k : SlotIx) (x : IdStep) : (s.setStep k x).counters = s.counters := rfl
@[simp] theorem State.setStep_params (s : State) (k : SlotIx) (x : IdStep) : (s.setStep k x).params = s.params := rfl

/-! ## `State.modModule` -/

@[simp] theorem State.modModule_pending (s : State) (m : ModIx) (f : ModEntry → ModEntry) : (s.modModule m f).pending = s.pending := rfl
@[simp] theorem State.modModule_store (s : State) (m : ModIx) (f : ModEntry → ModEntry) : (s.modModule m f).store = s.store := rfl
@[simp] theorem State.modModule_phase (s : State) (m : ModIx) (f : ModEntry → ModEntry) : (s.modModule m f).phase = s.phase := rfl
@[simp] theorem State.modModule_port (s : State) (m : ModIx) (f : ModEntry → ModEntry) : (s.modModule m f).port = s.port := rfl
@[simp] theorem State.modModule_board (s : State) (m : ModIx) (f : ModEntry → ModEntry) : (s.modModule m f).board = s.board := rfl
@[simp] theorem State.modModule_walker (s : State) (m : ModIx) (f : ModEntry → ModEntry) : (s.modModule m f).walker = s.walker := rfl
@[simp] theorem State.modModule_chips (s : State) (m : ModIx) (f : ModEntry → ModEntry) : (s.modModule m f).chips = s.chips := rfl
@[simp] theorem State.modModule_heldSlots (s : State) (m : ModIx) (f : ModEntry → ModEntry) : (s.modModule m f).heldSlots = s.heldSlots := rfl
@[simp] theorem State.modModule_emptySlots (s : State) (m : ModIx) (f : ModEntry → ModEntry) : (s.modModule m f).emptySlots = s.emptySlots := rfl
@[simp] theorem State.modModule_release (s : State) (m : ModIx) (f : ModEntry → ModEntry) : (s.modModule m f).release = s.release := rfl
@[simp] theorem State.modModule_loans (s : State) (m : ModIx) (f : ModEntry → ModEntry) : (s.modModule m f).loans = s.loans := rfl
@[simp] theorem State.modModule_poster (s : State) (m : ModIx) (f : ModEntry → ModEntry) : (s.modModule m f).poster = s.poster := rfl
@[simp] theorem State.modModule_counters (s : State) (m : ModIx) (f : ModEntry → ModEntry) : (s.modModule m f).counters = s.counters := rfl
@[simp] theorem State.modModule_params (s : State) (m : ModIx) (f : ModEntry → ModEntry) : (s.modModule m f).params = s.params := rfl

/-! ## `State.refuseWrite` -/

@[simp] theorem State.refuseWrite_pending (s : State) : (s.refuseWrite).pending = s.pending := rfl
@[simp] theorem State.refuseWrite_store (s : State) : (s.refuseWrite).store = s.store := rfl
@[simp] theorem State.refuseWrite_phase (s : State) : (s.refuseWrite).phase = s.phase := rfl
@[simp] theorem State.refuseWrite_board (s : State) : (s.refuseWrite).board = s.board := rfl
@[simp] theorem State.refuseWrite_walker (s : State) : (s.refuseWrite).walker = s.walker := rfl
@[simp] theorem State.refuseWrite_mlc (s : State) : (s.refuseWrite).mlc = s.mlc := rfl
@[simp] theorem State.refuseWrite_chips (s : State) : (s.refuseWrite).chips = s.chips := rfl
@[simp] theorem State.refuseWrite_heldSlots (s : State) : (s.refuseWrite).heldSlots = s.heldSlots := rfl
@[simp] theorem State.refuseWrite_emptySlots (s : State) : (s.refuseWrite).emptySlots = s.emptySlots := rfl
@[simp] theorem State.refuseWrite_release (s : State) : (s.refuseWrite).release = s.release := rfl
@[simp] theorem State.refuseWrite_loans (s : State) : (s.refuseWrite).loans = s.loans := rfl
@[simp] theorem State.refuseWrite_poster (s : State) : (s.refuseWrite).poster = s.poster := rfl
@[simp] theorem State.refuseWrite_counters (s : State) : (s.refuseWrite).counters = s.counters := rfl
@[simp] theorem State.refuseWrite_params (s : State) : (s.refuseWrite).params = s.params := rfl

/-! ## `State.tally` -/

@[simp] theorem State.tally_pending (s : State) (kind : TallyKind) (m : Option ModIx) (c : Option Byte) : (s.tally kind m c).pending = s.pending := rfl
@[simp] theorem State.tally_store (s : State) (kind : TallyKind) (m : Option ModIx) (c : Option Byte) : (s.tally kind m c).store = s.store := rfl
@[simp] theorem State.tally_phase (s : State) (kind : TallyKind) (m : Option ModIx) (c : Option Byte) : (s.tally kind m c).phase = s.phase := rfl
@[simp] theorem State.tally_port (s : State) (kind : TallyKind) (m : Option ModIx) (c : Option Byte) : (s.tally kind m c).port = s.port := rfl
@[simp] theorem State.tally_board (s : State) (kind : TallyKind) (m : Option ModIx) (c : Option Byte) : (s.tally kind m c).board = s.board := rfl
@[simp] theorem State.tally_walker (s : State) (kind : TallyKind) (m : Option ModIx) (c : Option Byte) : (s.tally kind m c).walker = s.walker := rfl
@[simp] theorem State.tally_mlc (s : State) (kind : TallyKind) (m : Option ModIx) (c : Option Byte) : (s.tally kind m c).mlc = s.mlc := rfl
@[simp] theorem State.tally_chips (s : State) (kind : TallyKind) (m : Option ModIx) (c : Option Byte) : (s.tally kind m c).chips = s.chips := rfl
@[simp] theorem State.tally_heldSlots (s : State) (kind : TallyKind) (m : Option ModIx) (c : Option Byte) : (s.tally kind m c).heldSlots = s.heldSlots := rfl
@[simp] theorem State.tally_emptySlots (s : State) (kind : TallyKind) (m : Option ModIx) (c : Option Byte) : (s.tally kind m c).emptySlots = s.emptySlots := rfl
@[simp] theorem State.tally_release (s : State) (kind : TallyKind) (m : Option ModIx) (c : Option Byte) : (s.tally kind m c).release = s.release := rfl
@[simp] theorem State.tally_loans (s : State) (kind : TallyKind) (m : Option ModIx) (c : Option Byte) : (s.tally kind m c).loans = s.loans := rfl
@[simp] theorem State.tally_poster (s : State) (kind : TallyKind) (m : Option ModIx) (c : Option Byte) : (s.tally kind m c).poster = s.poster := rfl
@[simp] theorem State.tally_params (s : State) (kind : TallyKind) (m : Option ModIx) (c : Option Byte) : (s.tally kind m c).params = s.params := rfl

/-! ## `State.evalAlert` -/

@[simp] theorem State.evalAlert_pending (s : State) : (s.evalAlert).pending = s.pending := rfl
@[simp] theorem State.evalAlert_store (s : State) : (s.evalAlert).store = s.store := rfl
@[simp] theorem State.evalAlert_phase (s : State) : (s.evalAlert).phase = s.phase := rfl
@[simp] theorem State.evalAlert_board (s : State) : (s.evalAlert).board = s.board := rfl
@[simp] theorem State.evalAlert_walker (s : State) : (s.evalAlert).walker = s.walker := rfl
@[simp] theorem State.evalAlert_mlc (s : State) : (s.evalAlert).mlc = s.mlc := rfl
@[simp] theorem State.evalAlert_chips (s : State) : (s.evalAlert).chips = s.chips := rfl
@[simp] theorem State.evalAlert_heldSlots (s : State) : (s.evalAlert).heldSlots = s.heldSlots := rfl
@[simp] theorem State.evalAlert_emptySlots (s : State) : (s.evalAlert).emptySlots = s.emptySlots := rfl
@[simp] theorem State.evalAlert_release (s : State) : (s.evalAlert).release = s.release := rfl
@[simp] theorem State.evalAlert_loans (s : State) : (s.evalAlert).loans = s.loans := rfl
@[simp] theorem State.evalAlert_poster (s : State) : (s.evalAlert).poster = s.poster := rfl
@[simp] theorem State.evalAlert_counters (s : State) : (s.evalAlert).counters = s.counters := rfl
@[simp] theorem State.evalAlert_params (s : State) : (s.evalAlert).params = s.params := rfl

/-! ## `State.offer` -/

@[simp] theorem State.offer_pending (s : State) (o : Offer) : (s.offer o).pending = s.pending := rfl
@[simp] theorem State.offer_store (s : State) (o : Offer) : (s.offer o).store = s.store := rfl
@[simp] theorem State.offer_phase (s : State) (o : Offer) : (s.offer o).phase = s.phase := rfl
@[simp] theorem State.offer_port (s : State) (o : Offer) : (s.offer o).port = s.port := rfl
@[simp] theorem State.offer_board (s : State) (o : Offer) : (s.offer o).board = s.board := rfl
@[simp] theorem State.offer_walker (s : State) (o : Offer) : (s.offer o).walker = s.walker := rfl
@[simp] theorem State.offer_mlc (s : State) (o : Offer) : (s.offer o).mlc = s.mlc := rfl
@[simp] theorem State.offer_chips (s : State) (o : Offer) : (s.offer o).chips = s.chips := rfl
@[simp] theorem State.offer_heldSlots (s : State) (o : Offer) : (s.offer o).heldSlots = s.heldSlots := rfl
@[simp] theorem State.offer_emptySlots (s : State) (o : Offer) : (s.offer o).emptySlots = s.emptySlots := rfl
@[simp] theorem State.offer_release (s : State) (o : Offer) : (s.offer o).release = s.release := rfl
@[simp] theorem State.offer_loans (s : State) (o : Offer) : (s.offer o).loans = s.loans := rfl
@[simp] theorem State.offer_counters (s : State) (o : Offer) : (s.offer o).counters = s.counters := rfl
@[simp] theorem State.offer_params (s : State) (o : Offer) : (s.offer o).params = s.params := rfl

/-! ## `State.setCtx` -/

@[simp] theorem State.setCtx_pending (s : State) (c : CtxIx) (x : Option Context) : (s.setCtx c x).pending = s.pending := rfl
@[simp] theorem State.setCtx_store (s : State) (c : CtxIx) (x : Option Context) : (s.setCtx c x).store = s.store := rfl
@[simp] theorem State.setCtx_phase (s : State) (c : CtxIx) (x : Option Context) : (s.setCtx c x).phase = s.phase := rfl
@[simp] theorem State.setCtx_port (s : State) (c : CtxIx) (x : Option Context) : (s.setCtx c x).port = s.port := rfl
@[simp] theorem State.setCtx_board (s : State) (c : CtxIx) (x : Option Context) : (s.setCtx c x).board = s.board := rfl
@[simp] theorem State.setCtx_walker (s : State) (c : CtxIx) (x : Option Context) : (s.setCtx c x).walker = s.walker := rfl
@[simp] theorem State.setCtx_mlc (s : State) (c : CtxIx) (x : Option Context) : (s.setCtx c x).mlc = s.mlc := rfl
@[simp] theorem State.setCtx_chips (s : State) (c : CtxIx) (x : Option Context) : (s.setCtx c x).chips = s.chips := rfl
@[simp] theorem State.setCtx_heldSlots (s : State) (c : CtxIx) (x : Option Context) : (s.setCtx c x).heldSlots = s.heldSlots := rfl
@[simp] theorem State.setCtx_emptySlots (s : State) (c : CtxIx) (x : Option Context) : (s.setCtx c x).emptySlots = s.emptySlots := rfl
@[simp] theorem State.setCtx_loans (s : State) (c : CtxIx) (x : Option Context) : (s.setCtx c x).loans = s.loans := rfl
@[simp] theorem State.setCtx_poster (s : State) (c : CtxIx) (x : Option Context) : (s.setCtx c x).poster = s.poster := rfl
@[simp] theorem State.setCtx_counters (s : State) (c : CtxIx) (x : Option Context) : (s.setCtx c x).counters = s.counters := rfl
@[simp] theorem State.setCtx_params (s : State) (c : CtxIx) (x : Option Context) : (s.setCtx c x).params = s.params := rfl

/-! ## `State.setRound` -/

@[simp] theorem State.setRound_pending (s : State) (r : Option Round) : (s.setRound r).pending = s.pending := rfl
@[simp] theorem State.setRound_store (s : State) (r : Option Round) : (s.setRound r).store = s.store := rfl
@[simp] theorem State.setRound_phase (s : State) (r : Option Round) : (s.setRound r).phase = s.phase := rfl
@[simp] theorem State.setRound_port (s : State) (r : Option Round) : (s.setRound r).port = s.port := rfl
@[simp] theorem State.setRound_board (s : State) (r : Option Round) : (s.setRound r).board = s.board := rfl
@[simp] theorem State.setRound_walker (s : State) (r : Option Round) : (s.setRound r).walker = s.walker := rfl
@[simp] theorem State.setRound_chips (s : State) (r : Option Round) : (s.setRound r).chips = s.chips := rfl
@[simp] theorem State.setRound_heldSlots (s : State) (r : Option Round) : (s.setRound r).heldSlots = s.heldSlots := rfl
@[simp] theorem State.setRound_emptySlots (s : State) (r : Option Round) : (s.setRound r).emptySlots = s.emptySlots := rfl
@[simp] theorem State.setRound_release (s : State) (r : Option Round) : (s.setRound r).release = s.release := rfl
@[simp] theorem State.setRound_loans (s : State) (r : Option Round) : (s.setRound r).loans = s.loans := rfl
@[simp] theorem State.setRound_poster (s : State) (r : Option Round) : (s.setRound r).poster = s.poster := rfl
@[simp] theorem State.setRound_counters (s : State) (r : Option Round) : (s.setRound r).counters = s.counters := rfl
@[simp] theorem State.setRound_params (s : State) (r : Option Round) : (s.setRound r).params = s.params := rfl

/-! ## `State.setSurvey` -/

@[simp] theorem State.setSurvey_pending (s : State) (v : Option Survey) : (s.setSurvey v).pending = s.pending := rfl
@[simp] theorem State.setSurvey_store (s : State) (v : Option Survey) : (s.setSurvey v).store = s.store := rfl
@[simp] theorem State.setSurvey_phase (s : State) (v : Option Survey) : (s.setSurvey v).phase = s.phase := rfl
@[simp] theorem State.setSurvey_port (s : State) (v : Option Survey) : (s.setSurvey v).port = s.port := rfl
@[simp] theorem State.setSurvey_board (s : State) (v : Option Survey) : (s.setSurvey v).board = s.board := rfl
@[simp] theorem State.setSurvey_walker (s : State) (v : Option Survey) : (s.setSurvey v).walker = s.walker := rfl
@[simp] theorem State.setSurvey_chips (s : State) (v : Option Survey) : (s.setSurvey v).chips = s.chips := rfl
@[simp] theorem State.setSurvey_heldSlots (s : State) (v : Option Survey) : (s.setSurvey v).heldSlots = s.heldSlots := rfl
@[simp] theorem State.setSurvey_emptySlots (s : State) (v : Option Survey) : (s.setSurvey v).emptySlots = s.emptySlots := rfl
@[simp] theorem State.setSurvey_release (s : State) (v : Option Survey) : (s.setSurvey v).release = s.release := rfl
@[simp] theorem State.setSurvey_loans (s : State) (v : Option Survey) : (s.setSurvey v).loans = s.loans := rfl
@[simp] theorem State.setSurvey_poster (s : State) (v : Option Survey) : (s.setSurvey v).poster = s.poster := rfl
@[simp] theorem State.setSurvey_counters (s : State) (v : Option Survey) : (s.setSurvey v).counters = s.counters := rfl
@[simp] theorem State.setSurvey_params (s : State) (v : Option Survey) : (s.setSurvey v).params = s.params := rfl

/-! ## `State.setTxn` -/

@[simp] theorem State.setTxn_pending (s : State) (t : Option Transaction) : (s.setTxn t).pending = s.pending := rfl
@[simp] theorem State.setTxn_store (s : State) (t : Option Transaction) : (s.setTxn t).store = s.store := rfl
@[simp] theorem State.setTxn_phase (s : State) (t : Option Transaction) : (s.setTxn t).phase = s.phase := rfl
@[simp] theorem State.setTxn_port (s : State) (t : Option Transaction) : (s.setTxn t).port = s.port := rfl
@[simp] theorem State.setTxn_board (s : State) (t : Option Transaction) : (s.setTxn t).board = s.board := rfl
@[simp] theorem State.setTxn_walker (s : State) (t : Option Transaction) : (s.setTxn t).walker = s.walker := rfl
@[simp] theorem State.setTxn_chips (s : State) (t : Option Transaction) : (s.setTxn t).chips = s.chips := rfl
@[simp] theorem State.setTxn_heldSlots (s : State) (t : Option Transaction) : (s.setTxn t).heldSlots = s.heldSlots := rfl
@[simp] theorem State.setTxn_emptySlots (s : State) (t : Option Transaction) : (s.setTxn t).emptySlots = s.emptySlots := rfl
@[simp] theorem State.setTxn_release (s : State) (t : Option Transaction) : (s.setTxn t).release = s.release := rfl
@[simp] theorem State.setTxn_loans (s : State) (t : Option Transaction) : (s.setTxn t).loans = s.loans := rfl
@[simp] theorem State.setTxn_poster (s : State) (t : Option Transaction) : (s.setTxn t).poster = s.poster := rfl
@[simp] theorem State.setTxn_counters (s : State) (t : Option Transaction) : (s.setTxn t).counters = s.counters := rfl
@[simp] theorem State.setTxn_params (s : State) (t : Option Transaction) : (s.setTxn t).params = s.params := rfl

/-! ## `State.insertDue` -/

@[simp] theorem State.insertDue_pending (s : State) (i : RecIx) (due : Word) : (s.insertDue i due).pending = s.pending := rfl
@[simp] theorem State.insertDue_store (s : State) (i : RecIx) (due : Word) : (s.insertDue i due).store = s.store := rfl
@[simp] theorem State.insertDue_phase (s : State) (i : RecIx) (due : Word) : (s.insertDue i due).phase = s.phase := rfl
@[simp] theorem State.insertDue_port (s : State) (i : RecIx) (due : Word) : (s.insertDue i due).port = s.port := rfl
@[simp] theorem State.insertDue_board (s : State) (i : RecIx) (due : Word) : (s.insertDue i due).board = s.board := rfl
@[simp] theorem State.insertDue_walker (s : State) (i : RecIx) (due : Word) : (s.insertDue i due).walker = s.walker := rfl
@[simp] theorem State.insertDue_mlc (s : State) (i : RecIx) (due : Word) : (s.insertDue i due).mlc = s.mlc := rfl
@[simp] theorem State.insertDue_chips (s : State) (i : RecIx) (due : Word) : (s.insertDue i due).chips = s.chips := rfl
@[simp] theorem State.insertDue_heldSlots (s : State) (i : RecIx) (due : Word) : (s.insertDue i due).heldSlots = s.heldSlots := rfl
@[simp] theorem State.insertDue_emptySlots (s : State) (i : RecIx) (due : Word) : (s.insertDue i due).emptySlots = s.emptySlots := rfl
@[simp] theorem State.insertDue_release (s : State) (i : RecIx) (due : Word) : (s.insertDue i due).release = s.release := rfl
@[simp] theorem State.insertDue_poster (s : State) (i : RecIx) (due : Word) : (s.insertDue i due).poster = s.poster := rfl
@[simp] theorem State.insertDue_counters (s : State) (i : RecIx) (due : Word) : (s.insertDue i due).counters = s.counters := rfl
@[simp] theorem State.insertDue_params (s : State) (i : RecIx) (due : Word) : (s.insertDue i due).params = s.params := rfl

/-! ## `State.withPending` -/

@[simp] theorem State.withPending_store (s : State) (q : List Instr) : (s.withPending q).store = s.store := rfl
@[simp] theorem State.withPending_phase (s : State) (q : List Instr) : (s.withPending q).phase = s.phase := rfl
@[simp] theorem State.withPending_port (s : State) (q : List Instr) : (s.withPending q).port = s.port := rfl
@[simp] theorem State.withPending_board (s : State) (q : List Instr) : (s.withPending q).board = s.board := rfl
@[simp] theorem State.withPending_walker (s : State) (q : List Instr) : (s.withPending q).walker = s.walker := rfl
@[simp] theorem State.withPending_mlc (s : State) (q : List Instr) : (s.withPending q).mlc = s.mlc := rfl
@[simp] theorem State.withPending_chips (s : State) (q : List Instr) : (s.withPending q).chips = s.chips := rfl
@[simp] theorem State.withPending_heldSlots (s : State) (q : List Instr) : (s.withPending q).heldSlots = s.heldSlots := rfl
@[simp] theorem State.withPending_emptySlots (s : State) (q : List Instr) : (s.withPending q).emptySlots = s.emptySlots := rfl
@[simp] theorem State.withPending_release (s : State) (q : List Instr) : (s.withPending q).release = s.release := rfl
@[simp] theorem State.withPending_loans (s : State) (q : List Instr) : (s.withPending q).loans = s.loans := rfl
@[simp] theorem State.withPending_poster (s : State) (q : List Instr) : (s.withPending q).poster = s.poster := rfl
@[simp] theorem State.withPending_counters (s : State) (q : List Instr) : (s.withPending q).counters = s.counters := rfl
@[simp] theorem State.withPending_params (s : State) (q : List Instr) : (s.withPending q).params = s.params := rfl

/-! ## `State.withFront` -/

@[simp] theorem State.withFront_store (s : State) (c : Instr) : (s.withFront c).store = s.store := rfl
@[simp] theorem State.withFront_phase (s : State) (c : Instr) : (s.withFront c).phase = s.phase := rfl
@[simp] theorem State.withFront_port (s : State) (c : Instr) : (s.withFront c).port = s.port := rfl
@[simp] theorem State.withFront_board (s : State) (c : Instr) : (s.withFront c).board = s.board := rfl
@[simp] theorem State.withFront_walker (s : State) (c : Instr) : (s.withFront c).walker = s.walker := rfl
@[simp] theorem State.withFront_mlc (s : State) (c : Instr) : (s.withFront c).mlc = s.mlc := rfl
@[simp] theorem State.withFront_chips (s : State) (c : Instr) : (s.withFront c).chips = s.chips := rfl
@[simp] theorem State.withFront_heldSlots (s : State) (c : Instr) : (s.withFront c).heldSlots = s.heldSlots := rfl
@[simp] theorem State.withFront_emptySlots (s : State) (c : Instr) : (s.withFront c).emptySlots = s.emptySlots := rfl
@[simp] theorem State.withFront_release (s : State) (c : Instr) : (s.withFront c).release = s.release := rfl
@[simp] theorem State.withFront_loans (s : State) (c : Instr) : (s.withFront c).loans = s.loans := rfl
@[simp] theorem State.withFront_poster (s : State) (c : Instr) : (s.withFront c).poster = s.poster := rfl
@[simp] theorem State.withFront_counters (s : State) (c : Instr) : (s.withFront c).counters = s.counters := rfl
@[simp] theorem State.withFront_params (s : State) (c : Instr) : (s.withFront c).params = s.params := rfl

/-! ## The written fields -/

@[simp] theorem State.withPending_pending (s : State) (q : List Instr) : (s.withPending q).pending = q := rfl
@[simp] theorem State.withFront_pending (s : State) (c : Instr) : (s.withFront c).pending = c :: s.pending := rfl
@[simp] theorem State.writeStore_store (s : State) (a : Nat) (bs : List Byte) :
    (s.writeStore a bs).store = s.store.write a bs := rfl
@[simp] theorem State.setTxn_transaction (s : State) (t : Option Transaction) : (s.setTxn t).mlc.transaction = t := rfl
@[simp] theorem State.setRound_round (s : State) (r : Option Round) : (s.setRound r).mlc.round = r := rfl
@[simp] theorem State.setSurvey_survey (s : State) (v : Option Survey) : (s.setSurvey v).mlc.survey = v := rfl
@[simp] theorem State.ctx_setCtx (s : State) (c : CtxIx) (x : Option Context) : (s.setCtx c x).ctx c = x := by
  simp [State.ctx, State.setCtx, setAt]
@[simp] theorem State.chip_modChip (s : State) (k : SlotIx) (f : Chip → Chip) : (s.modChip k f).chip k = f (s.chip k) := by
  simp [State.chip, State.modChip, setAt]
@[simp] theorem State.modEntry_modModule (s : State) (m : ModIx) (f : ModEntry → ModEntry) :
    (s.modModule m f).modEntry m = f (s.modEntry m) := by
  simp [State.modEntry, State.modModule, setAt]

end Sys2Proof.Machine
end

