-- ==== Sys2Proof/Laws/Commands.lean ====
section
/-! SUPPORT. What the operations that most commands share can do: the end of an event, the event that takes and begins an
order, the result of an order, and the reading of the store beside them. -/

namespace Sys2Proof.Machine

/-! ## The end of an event -/

/-- An event that offered no alert ends as it stands. -/
theorem State.finish_of_quiet {s : State} (h : s.quiet) : s.finish = s := by
  have e : s.poster.offered = [] := h
  have hp : ({ s.poster with offered := [] } : Poster) = s.poster := by
    cases hs : s.poster; rw [hs] at e; subst e; rfl
  unfold State.finish
  rw [e, hp]; rfl

/-! ## Places of the store -/

/-- A written cell byte range reads back. -/
theorem State.byte_writeCell_inside (s : State) (c : CellIx) (n : Nat) (bs : List Byte) (j : Nat) (h : j < bs.length) :
    (s.writeCell c n bs).byte (cellBase c + n + j) = bs[j] := State.byte_writeStore_inside s _ bs j h

/-- A write of a cell's bytes leaves every other byte. -/
theorem State.byte_writeCell_outside (s : State) (c : CellIx) (n : Nat) (bs : List Byte) (x : Nat)
    (h : x < cellBase c + n ∨ cellBase c + n + bs.length ≤ x) : (s.writeCell c n bs).byte x = s.byte x :=
  State.byte_writeStore_outside s _ bs x h

/-- A write of a slot record leaves every byte outside it. -/
theorem State.byte_setSlot (s : State) (k : SlotIx) (r : SlotRec) (x : Nat) (h : ¬ inBlock (slotBase k) 24 x) :
    (s.setSlot k r).byte x = s.byte x := by
  apply State.byte_writeStore_outside; rw [SlotRec.encode_length]; unfold inBlock at h; omega

/-- A write of a key record leaves every byte outside it. -/
theorem State.byte_setKey (s : State) (i : RecIx) (r : KeyRec) (x : Nat) (h : ¬ inBlock (keyBase i) 32 x) :
    (s.setKey i r).byte x = s.byte x := by
  apply State.byte_writeStore_outside; rw [KeyRec.encode_length]; unfold inBlock at h; omega

/-- The same store bytes give the same slot record. -/
theorem State.slot_congr {s t : State} (k : SlotIx) (h : ∀ n, n < 24 → t.byte (slotBase k + n) = s.byte (slotBase k + n)) :
    t.slot k = s.slot k := by
  unfold State.slot SlotRec.decode half word
  simp only [h, Nat.reduceAdd, Nat.reduceLT]

/-- The same store bytes give the same key record. -/
theorem State.key_congr {s t : State} (i : RecIx) (h : ∀ n, n < 32 → t.byte (keyBase i + n) = s.byte (keyBase i + n)) :
    t.key i = s.key i := by
  unfold State.key KeyRec.decode half word
  simp only [h, Nat.reduceAdd, Nat.reduceLT]

/-! ## Results -/

/-- The bytes of the result data, in the order they are written. -/
def State.writeData (s : State) (c : CellIx) (l : List (Nat × List Byte)) : State :=
  l.foldl (fun s d => s.writeCell c d.1 d.2) s

@[simp] theorem State.writeData_nil (s : State) (c : CellIx) : s.writeData c [] = s := rfl
@[simp] theorem State.writeData_cons (s : State) (c : CellIx) (d : Nat × List Byte) (l : List (Nat × List Byte)) :
    s.writeData c (d :: l) = (s.writeCell c d.1 d.2).writeData c l := rfl

/-- Result data changes the store alone. -/
theorem State.writeData_eq (s : State) (c : CellIx) (l : List (Nat × List Byte)) :
    s.writeData c l = { s with store := (s.writeData c l).store } := by
  induction l generalizing s with
  | nil => rfl
  | cons d l ih => rw [writeData_cons, ih]; rfl

/-- A result is its data, then the code, detail and index, then the state byte, then the DONE SUMMARY bit. -/
theorem State.writeResult_steps (s : State) (c : CellIx) (r : Result) :
    s.writeResult c r =
      { (((s.writeData c r.data).writeCell c 4 ([r.code.byte, r.detail] ++ le16 r.index)).writeCell c 0 [cellDone]) with
        port := s.port.setDone c } := by
  have h : (s.writeData c r.data).port = s.port := by rw [State.writeData_eq]
  show { (((s.writeData c r.data).writeCell c 4 ([r.code.byte, r.detail] ++ le16 r.index)).writeCell c 0 [cellDone]) with
        port := (s.writeData c r.data).port.setDone c } = _
  rw [h]

/-- A result changes the store and the port alone. -/
theorem State.writeResult_eq (s : State) (c : CellIx) (r : Result) :
    s.writeResult c r = { s with store := (s.writeResult c r).store, port := s.port.setDone c } := by
  rw [State.writeResult_steps, State.writeData_eq]; rfl

@[simp] theorem State.writeResult_port (s : State) (c : CellIx) (r : Result) : (s.writeResult c r).port = s.port.setDone c := by
  rw [State.writeResult_eq]
@[simp] theorem State.writeResult_pending (s : State) (c : CellIx) (r : Result) : (s.writeResult c r).pending = s.pending := by
  rw [State.writeResult_eq]
@[simp] theorem State.writeResult_phase (s : State) (c : CellIx) (r : Result) : (s.writeResult c r).phase = s.phase := by
  rw [State.writeResult_eq]
@[simp] theorem State.writeResult_board (s : State) (c : CellIx) (r : Result) : (s.writeResult c r).board = s.board := by
  rw [State.writeResult_eq]
@[simp] theorem State.writeResult_walker (s : State) (c : CellIx) (r : Result) : (s.writeResult c r).walker = s.walker := by
  rw [State.writeResult_eq]
@[simp] theorem State.writeResult_mlc (s : State) (c : CellIx) (r : Result) : (s.writeResult c r).mlc = s.mlc := by
  rw [State.writeResult_eq]
@[simp] theorem State.writeResult_chips (s : State) (c : CellIx) (r : Result) : (s.writeResult c r).chips = s.chips := by
  rw [State.writeResult_eq]
@[simp] theorem State.writeResult_heldSlots (s : State) (c : CellIx) (r : Result) :
    (s.writeResult c r).heldSlots = s.heldSlots := by rw [State.writeResult_eq]
@[simp] theorem State.writeResult_emptySlots (s : State) (c : CellIx) (r : Result) :
    (s.writeResult c r).emptySlots = s.emptySlots := by rw [State.writeResult_eq]
@[simp] theorem State.writeResult_release (s : State) (c : CellIx) (r : Result) : (s.writeResult c r).release = s.release := by
  rw [State.writeResult_eq]
@[simp] theorem State.writeResult_loans (s : State) (c : CellIx) (r : Result) : (s.writeResult c r).loans = s.loans := by
  rw [State.writeResult_eq]
@[simp] theorem State.writeResult_poster (s : State) (c : CellIx) (r : Result) : (s.writeResult c r).poster = s.poster := by
  rw [State.writeResult_eq]
@[simp] theorem State.writeResult_counters (s : State) (c : CellIx) (r : Result) :
    (s.writeResult c r).counters = s.counters := by rw [State.writeResult_eq]
@[simp] theorem State.writeResult_params (s : State) (c : CellIx) (r : Result) : (s.writeResult c r).params = s.params := by
  rw [State.writeResult_eq]

/-- The bytes of a result: the state byte, code, detail and index; any other byte is as the data left it. -/
theorem State.byte_writeResult (s : State) (c : CellIx) (r : Result) (x : Nat) (h : ¬ inResult c x) :
    (s.writeResult c r).byte x = (s.writeData c r.data).byte x := by
  rw [State.writeResult_steps]
  unfold inResult inBlock at h
  show (((s.writeData c r.data).writeCell c 4 _).writeCell c 0 _).byte x = _
  rw [State.byte_writeCell_outside, State.byte_writeCell_outside]
  · show x < _ ∨ cellBase c + 4 + 4 ≤ x; omega
  · show x < _ ∨ cellBase c + 0 + 1 ≤ x; omega

/-- A result without data leaves every byte but its own. -/
theorem State.byte_writeResult_plain (s : State) (c : CellIx) (r : Result) (hd : r.data = []) (x : Nat)
    (h : ¬ inResult c x) : (s.writeResult c r).byte x = s.byte x := by
  rw [State.byte_writeResult s c r x h, hd]; rfl

/-- The data of a result with one run of bytes, past the cell's first eight bytes. -/
theorem State.byte_writeResult_data (s : State) (c : CellIx) (r : Result) (off : Nat) (bs : List Byte)
    (hd : r.data = [(off, bs)]) (ho : 8 ≤ off) (j : Nat) (h : j < bs.length) :
    (s.writeResult c r).byte (cellBase c + off + j) = bs[j] := by
  rw [State.byte_writeResult _ _ _ _ (by unfold inResult inBlock; omega), hd, State.writeData_cons, State.writeData_nil]
  exact State.byte_writeCell_inside s c off bs j h

/-- A result with one run of data leaves every byte but its own and the run's. -/
theorem State.byte_writeResult_other (s : State) (c : CellIx) (r : Result) (off : Nat) (bs : List Byte)
    (hd : r.data = [(off, bs)]) (x : Nat) (h : ¬ inResult c x) (h' : ¬ inBlock (cellBase c + off) bs.length x) :
    (s.writeResult c r).byte x = s.byte x := by
  rw [State.byte_writeResult _ _ _ _ h, hd, State.writeData_cons, State.writeData_nil]
  unfold inBlock at h'
  exact State.byte_writeCell_outside s c off bs x (by omega)

/-- A result leaves its code, detail and index, its cell DONE and its DONE SUMMARY bit set. -/
theorem State.holdsResult_writeResult (s : State) (c : CellIx) (r : Result) :
    (s.writeResult c r).holdsResult c r.code r.detail r.index := by
  have h4 : ∀ j (hj : j < 4), (s.writeResult c r).byte (cellBase c + 4 + j) = ([r.code.byte, r.detail] ++ le16 r.index)[j]'hj := by
    intro j hj
    rw [State.writeResult_steps]
    show (((s.writeData c r.data).writeCell c 4 _).writeCell c 0 _).byte _ = _
    rw [State.byte_writeCell_outside _ _ _ _ _ (by right; show cellBase c + 0 + 1 ≤ _; omega)]
    exact State.byte_writeCell_inside _ c 4 ([r.code.byte, r.detail] ++ le16 r.index) j hj
  refine ⟨?_, h4 0 (by omega), h4 1 (by omega), ?_, ?_⟩
  · rw [State.writeResult_steps]
    exact State.byte_writeCell_inside _ c 0 [cellDone] 0 (by simp)
  · have e : half ((s.writeResult c r).cellByte c) 6 =
        (s.writeResult c r).byte (cellBase c + 4 + 3) ++ (s.writeResult c r).byte (cellBase c + 4 + 2) := rfl
    rw [e, h4 3 (by omega), h4 2 (by omega)]
    exact half_le16 r.index
  · rw [State.writeResult_port]
    show (s.port.doneSummary ||| BitVec.twoPow 32 c.val).getLsbD c.val = true
    rw [BitVec.getLsbD_or, BitVec.getLsbD_twoPow]; simp

/-- A DONE SUMMARY bit stays set when a cell turns DONE. -/
theorem Port.setDone_keeps {p : Port} {n : Nat} (c : CellIx) (h : p.doneSummary.getLsbD n = true) :
    (p.setDone c).doneSummary.getLsbD n = true := by
  show (p.doneSummary ||| BitVec.twoPow 32 c.val).getLsbD n = true
  rw [BitVec.getLsbD_or, h]; rfl

/-- Slot records lie outside every cell. -/
theorem slotBase_ge (k : SlotIx) : 0x0C00 ≤ slotBase k ∧ slotBase k + 24 ≤ 0x3000 := by
  unfold slotBase; omega

/-- Key records lie outside every cell. -/
theorem keyBase_ge (i : RecIx) : 0x3800 ≤ keyBase i ∧ keyBase i + 32 ≤ 0x10000 := by
  unfold keyBase; omega

/-- Cells lie below the shelf. -/
theorem cellBase_lt (c : CellIx) : cellBase c + 64 ≤ 0x0800 := by unfold cellBase; omega

/-- Shelf entries lie between the cells and the slot records. -/
theorem entryBase_ge (e : EntryIx) : 0x0800 ≤ entryBase e ∧ entryBase e + 32 ≤ 0x0C00 := by unfold entryBase; omega

/-- A result without data leaves every slot record. -/
theorem State.slot_writeResult (s : State) (c : CellIx) (r : Result) (hd : r.data = []) (k : SlotIx) :
    (s.writeResult c r).slot k = s.slot k := by
  apply State.slot_congr
  intro n hn
  apply State.byte_writeResult_plain s c r hd
  have := slotBase_ge k; have := cellBase_lt c; unfold inResult inBlock; omega

/-- A result without data leaves every key record. -/
theorem State.key_writeResult (s : State) (c : CellIx) (r : Result) (hd : r.data = []) (i : RecIx) :
    (s.writeResult c r).key i = s.key i := by
  apply State.key_congr
  intro n hn
  apply State.byte_writeResult_plain s c r hd
  have := keyBase_ge i; have := cellBase_lt c; unfold inResult inBlock; omega

/-! ## The event that takes and begins an order -/

/-- The copy made at the take. -/
def State.orderOf (s : State) (c : CellIx) : Order := { cell := c, copy := (List.range 63).map (fun n => s.cellByte c (n + 1)) }

/-- The copy of a cell holds its bytes 1 to 63. -/
theorem State.orderOf_byte (s : State) (c : CellIx) (n : Nat) (h1 : 1 ≤ n) (h : n < 64) :
    (s.orderOf c).byte n = s.cellByte c n := by
  unfold Order.byte State.orderOf
  simp only [List.getD_eq_getElem?_getD, List.getElem?_map]
  rw [List.getElem?_range (by omega)]
  simp only [Option.map_some, Option.getD_some]
  congr 1; omega

/-- A 16-bit field of the copy. -/
theorem State.orderOf_half (s : State) (c : CellIx) (n : Nat) (h1 : 1 ≤ n) (h : n + 1 < 64) :
    half (s.orderOf c).byte n = half (s.cellByte c) n := by
  unfold half; rw [State.orderOf_byte _ _ _ h1 (by omega), State.orderOf_byte _ _ _ (by omega) h]

/-- A 32-bit field of the copy. -/
theorem State.orderOf_word (s : State) (c : CellIx) (n : Nat) (h1 : 1 ≤ n) (h : n + 3 < 64) :
    word (s.orderOf c).byte n = word (s.cellByte c) n := by
  unfold word
  rw [State.orderOf_byte _ _ _ h1 (by omega), State.orderOf_byte _ _ _ (by omega) h,
    State.orderOf_byte _ _ (n + 1) (by omega) (by omega), State.orderOf_byte _ _ (n + 2) (by omega) (by omega)]

/-- The slot number of a slot order, as the cell holds it. -/
@[simp] theorem State.orderOf_slotNumber (s : State) (c : CellIx) : (s.orderOf c).slotNumber = half (s.cellByte c) 8 :=
  State.orderOf_half _ _ _ (by omega) (by omega)

/-- The fob ID of an order, as the cell holds it. -/
@[simp] theorem State.orderOf_fob (s : State) (c : CellIx) : (s.orderOf c).fob = word (s.cellByte c) 8 :=
  State.orderOf_word _ _ _ (by omega) (by omega)

/-- What the examination has done when the order begins: its cell is TAKEN and last taken, the scan has moved on. -/
def State.begun (s : State) (c : CellIx) (b : BoardScan) : State :=
  let t := (s.writeCell c 0 [cellTaken])
  let scan := if b.examined + 1 < 32 then some { b with examined := b.examined + 1 }
    else if s.board.scanOwed then some { start := c + 1, examined := 0 } else none
  let owed := if b.examined + 1 < 32 then s.board.scanOwed else false
  { t with board := { s.board with lastTaken := c, intake := [], scan := scan, scanOwed := owed } }

/-- An order that is due is taken and begun. -/
theorem State.takeAndBegin_due {s : State} {c : CellIx} {kind : Nat} (h : s.orderDue c kind = true) :
    ∃ b, s.board.scan = some b ∧ b.cell = c ∧ s.cellByte c 0 = 1 ∧ (s.cellByte c 1).toNat = kind ∧
      s.board.execution = none ∧ s.board.intake = [] ∧
      s.takeAndBegin true = (((s.begun c b).beginOrder (s.orderOf c)).runOrders []).finish := by
  unfold State.orderDue at h
  simp only [Bool.and_eq_true, beq_iff_eq, Option.any_eq_true, Option.isNone_iff_eq_none, List.isEmpty_iff] at h
  obtain ⟨⟨⟨⟨⟨b, hb, hc⟩, h0⟩, h1⟩, hx⟩, hi⟩ := h
  refine ⟨b, hb, hc, h0, h1, hx, hi, ?_⟩
  subst hc
  unfold State.takeAndBegin
  rw [hb]
  simp only [if_true]
  congr 1
  unfold State.examine
  rw [if_pos h0]
  have e : ((s.take b.cell).passCell b).board.intake = [s.orderOf b.cell] := by
    unfold State.passCell
    repeat' split
    all_goals (show s.board.intake ++ _ = _; rw [hi]; rfl)
  simp only [e]
  conv => lhs; unfold State.runOrders
  have hx' : ((s.take b.cell).passCell b).board.execution = none := by
    unfold State.passCell
    repeat' split
    all_goals exact hx
  rw [hx']
  simp only [Option.isSome_none, Bool.false_eq_true, if_false]
  congr 2
  unfold State.passCell State.begun
  by_cases h32 : b.examined + 1 < 32
  · rw [if_pos h32, if_pos h32, if_pos h32]; rfl
  · rw [if_neg h32, if_neg h32, if_neg h32]
    by_cases ho : s.board.scanOwed
    · rw [if_pos (show (s.take b.cell).board.scanOwed = true from ho), if_pos ho]; rfl
    · rw [if_neg (show ¬ (s.take b.cell).board.scanOwed = true from ho), if_neg ho]
      have : s.board.scanOwed = false := by simpa using ho
      unfold State.take
      simp only [this, State.writeCell_board]

/-! ## The state an order begins in -/

/-- The take and the scan change the store and the board alone. -/
theorem State.begun_eq (s : State) (c : CellIx) (b : BoardScan) :
    s.begun c b = { s with store := (s.begun c b).store, board := (s.begun c b).board } := rfl

@[simp] theorem State.begun_pending (s : State) (c : CellIx) (b : BoardScan) : (s.begun c b).pending = s.pending := rfl
@[simp] theorem State.begun_phase (s : State) (c : CellIx) (b : BoardScan) : (s.begun c b).phase = s.phase := rfl
@[simp] theorem State.begun_port (s : State) (c : CellIx) (b : BoardScan) : (s.begun c b).port = s.port := rfl
@[simp] theorem State.begun_walker (s : State) (c : CellIx) (b : BoardScan) : (s.begun c b).walker = s.walker := rfl
@[simp] theorem State.begun_mlc (s : State) (c : CellIx) (b : BoardScan) : (s.begun c b).mlc = s.mlc := rfl
@[simp] theorem State.begun_chips (s : State) (c : CellIx) (b : BoardScan) : (s.begun c b).chips = s.chips := rfl
@[simp] theorem State.begun_heldSlots (s : State) (c : CellIx) (b : BoardScan) : (s.begun c b).heldSlots = s.heldSlots := rfl
@[simp] theorem State.begun_emptySlots (s : State) (c : CellIx) (b : BoardScan) :
    (s.begun c b).emptySlots = s.emptySlots := rfl
@[simp] theorem State.begun_release (s : State) (c : CellIx) (b : BoardScan) : (s.begun c b).release = s.release := rfl
@[simp] theorem State.begun_loans (s : State) (c : CellIx) (b : BoardScan) : (s.begun c b).loans = s.loans := rfl
@[simp] theorem State.begun_poster (s : State) (c : CellIx) (b : BoardScan) : (s.begun c b).poster = s.poster := rfl
@[simp] theorem State.begun_counters (s : State) (c : CellIx) (b : BoardScan) : (s.begun c b).counters = s.counters := rfl
@[simp] theorem State.begun_params (s : State) (c : CellIx) (b : BoardScan) : (s.begun c b).params = s.params := rfl

/-- The board of an order's begin: its cell last taken, the scan moved on, nothing queued. -/
theorem State.begun_board (s : State) (c : CellIx) (b : BoardScan) (h : s.board.intake = []) :
    (s.begun c b).board =
      { s.board with lastTaken := c, scan := (s.begun c b).board.scan, scanOwed := (s.begun c b).board.scanOwed } := by
  unfold State.begun; simp only; rw [← h]

/-- The take leaves every byte but the state byte of its cell. -/
theorem State.byte_begun (s : State) (c : CellIx) (b : BoardScan) (x : Nat) (h : x ≠ cellBase c) :
    (s.begun c b).byte x = s.byte x := by
  apply State.byte_writeCell_outside
  show x < cellBase c + 0 ∨ cellBase c + 0 + 1 ≤ x
  omega

/-- The take leaves every slot record. -/
@[simp] theorem State.slot_begun (s : State) (c : CellIx) (b : BoardScan) (k : SlotIx) : (s.begun c b).slot k = s.slot k := by
  apply State.slot_congr; intro n hn; apply State.byte_begun
  have := slotBase_ge k; have := cellBase_lt c; omega

/-- The take leaves every key record. -/
@[simp] theorem State.key_begun (s : State) (c : CellIx) (b : BoardScan) (i : RecIx) : (s.begun c b).key i = s.key i := by
  apply State.key_congr; intro n hn; apply State.byte_begun
  have := keyBase_ge i; have := cellBase_lt c; omega

/-- An order that is due and ends in the event it begins leaves the state its meaning gives. -/
theorem State.takeAndBegin_ends {s : State} {c : CellIx} {kind : Nat} (q : s.quiet) (h : s.orderDue c kind = true)
    (f : Order → State → State) (hk : ∀ o, o.kind = kind → ∀ t : State, t.beginOrder o = f o t)
    (hp : ∀ o t, (f o t).poster = t.poster) (hb : ∀ o t, (f o t).board.intake = t.board.intake) :
    ∃ b, s.board.scan = some b ∧ b.cell = c ∧ s.board.intake = [] ∧ s.board.execution = none ∧
      s.takeAndBegin (s.orderDue c kind) = f (s.orderOf c) (s.begun c b) := by
  obtain ⟨b, hs, hc, h0, h1, hx, hi, e⟩ := State.takeAndBegin_due h
  refine ⟨b, hs, hc, hi, hx, ?_⟩
  rw [h, e, hk _ (by unfold Order.kind; rw [State.orderOf_byte _ _ _ (by omega) (by omega)]; exact h1)]
  have hr : (f (s.orderOf c) (s.begun c b)).runOrders [] = f (s.orderOf c) (s.begun c b) := by
    have h' : (f (s.orderOf c) (s.begun c b)).board.intake = [] := by rw [hb]; rfl
    generalize f (s.orderOf c) (s.begun c b) = t at h'
    unfold State.runOrders
    rw [← h']
  rw [hr]
  apply State.finish_of_quiet
  show (f _ _).poster.offered = []
  rw [hp]; exact q

@[simp] theorem State.orderOf_cell (s : State) (c : CellIx) : (s.orderOf c).cell = c := rfl

/-- A result without data, written in the state an order begins in, changes its cell and the board alone. -/
theorem State.begun_result (s : State) (c : CellIx) (b : BoardScan) (hi : s.board.intake = []) (r : Result)
    (hd : r.data = []) :
    ((s.begun c b).writeResult c r).holdsResult c r.code r.detail r.index ∧
      (∀ x, ¬ inResult c x → ((s.begun c b).writeResult c r).byte x = s.byte x) ∧
      s.orderFrame ((s.begun c b).writeResult c r) c := by
  refine ⟨State.holdsResult_writeResult _ _ _, ?_, ?_, ?_, ?_⟩
  · intro x hx
    rw [State.byte_writeResult_plain _ _ _ hd _ hx, State.byte_begun]
    unfold inResult at hx; omega
  · rw [State.writeResult_port]; rfl
  · rw [State.writeResult_board]; exact State.begun_board s c b hi
  · rw [State.writeResult_eq]; rfl

/-- A slot record and a result without data, written in the state an order begins in. -/
theorem State.begun_slot_result (s : State) (c : CellIx) (b : BoardScan) (hi : s.board.intake = []) (k : SlotIx)
    (r' : SlotRec) (r : Result) (hd : r.data = []) :
    (((s.begun c b).setSlot k r').writeResult c r).holdsResult c r.code r.detail r.index ∧
      (((s.begun c b).setSlot k r').writeResult c r).slot k = r' ∧
      (∀ x, ¬ inBlock (slotBase k) 24 x → ¬ inResult c x →
        (((s.begun c b).setSlot k r').writeResult c r).byte x = s.byte x) ∧
      s.orderFrame (((s.begun c b).setSlot k r').writeResult c r) c := by
  refine ⟨State.holdsResult_writeResult _ _ _, ?_, ?_, ?_, ?_, ?_⟩
  · rw [State.slot_writeResult _ _ _ hd, State.slot_setSlot]
  · intro x hk hx
    rw [State.byte_writeResult_plain _ _ _ hd _ hx, State.byte_setSlot _ _ _ _ hk, State.byte_begun]
    unfold inResult at hx; omega
  · rw [State.writeResult_port]; rfl
  · rw [State.writeResult_board]; exact State.begun_board s c b hi
  · rw [State.writeResult_eq]; rfl

/-- A slot number in range names its slot. -/
theorem slotOf_ofIx (k : SlotIx) : slotOf (ofIx k) = some k := by
  have h : (ofIx k : Half).toNat = k.val := by unfold ofIx; simp; omega
  unfold slotOf
  rw [dif_pos (by rw [h]; exact k.isLt)]
  congr 1; exact Fin.ext h

/-- A slot number above 383 names none. -/
theorem slotOf_none {h : Half} (hr : 384 ≤ h.toNat) : slotOf h = none := by unfold slotOf; rw [dif_neg (by omega)]

/-- A pool index in range names its record. -/
theorem recOf_ofIx (i : RecIx) : recOf (ofIx i) = some i := by
  have h : (ofIx i : Half).toNat = i.val := by unfold ofIx; simp; omega
  unfold recOf
  rw [dif_pos (by rw [h]; exact i.isLt)]
  congr 1; exact Fin.ext h

/-- The take leaves every chain head. -/
@[simp] theorem State.home_begun (s : State) (c : CellIx) (b : BoardScan) (h : Nat) : (s.begun c b).home h = s.home h := by
  have := cellBase_lt c
  unfold State.home half
  rw [State.byte_begun _ _ _ _ (by unfold homeBase; omega), State.byte_begun _ _ _ _ (by unfold homeBase; omega)]

/-- A walk request changes the Walker and, by the order held, the board. -/
theorem State.awaitWalk_eq (s : State) (o : Order) (window : Nat) (fob : Word) (chain : Bool) :
    s.awaitWalk o window fob chain = { s with
      board := { s.board with execution := some { order := o, window := window } }
      walker := (s.awaitWalk o window fob chain).walker } := by
  unfold State.awaitWalk State.requestWalk; dsimp only
  split <;> rfl

@[simp] theorem State.awaitWalk_poster (s : State) (o : Order) (window : Nat) (fob : Word) (chain : Bool) :
    (s.awaitWalk o window fob chain).poster = s.poster := by rw [State.awaitWalk_eq]

@[simp] theorem State.awaitWalk_intake (s : State) (o : Order) (window : Nat) (fob : Word) (chain : Bool) :
    (s.awaitWalk o window fob chain).board.intake = s.board.intake := by rw [State.awaitWalk_eq]

/-- Granting a request puts its walk in progress and changes nothing else. -/
theorem State.startWalk_eq (s : State) (asker : Asker) (fob : Word) (chain : Bool) :
    s.startWalk asker fob chain = { s with walker := { s.walker with walk := some (s.begunWalk asker fob chain) } } := rfl

@[simp] theorem State.startWalk_walker (s : State) (asker : Asker) (fob : Word) (chain : Bool) :
    (s.startWalk asker fob chain).walker = { s.walker with walk := some (s.begunWalk asker fob chain) } := rfl

/-- With no lookup waiting the Walker grants the Order Unit's request, or stays free. -/
theorem State.grantNext_nil (s : State) :
    s.grantNext [] = { s with walker := match s.walker.orderRequest with
      | none => { s.walker with slotRequests := [] }
      | some q => { s.walker with slotRequests := [], orderRequest := none
                                  walk := some (s.begunWalk .order q.fob q.chain) } } := by
  unfold State.grantNext
  cases h : s.walker.orderRequest <;> simp only [h] <;> rfl

/-- The oldest lookup is granted when its fob ID is valid. -/
theorem State.grantNext_valid (s : State) (q : SlotRequest) (qs : List SlotRequest) (h : invalidFob q.fob = false) :
    s.grantNext (q :: qs) = { s with walker :=
      { s.walker with slotRequests := qs, walk := some (s.begunWalk (.slot q.slot) q.fob true) } } := by
  simp only [State.grantNext, h, Bool.false_eq_true, if_false]
  rfl

/-- A lookup for an invalid fob ID is answered NOT FOUND at its grant, and the grants go on. -/
theorem State.grantNext_invalid (s : State) (q : SlotRequest) (qs : List SlotRequest) (h : invalidFob q.fob = true) :
    s.grantNext (q :: qs) = (s.lookupResult q.slot q.fob none).grantNext qs := by
  simp only [State.grantNext, h, if_true]

/-- An order that begins with a walk request waits for its walk. -/
theorem State.begun_awaitWalk (s : State) (c : CellIx) (b : BoardScan) (window : Nat) (fob : Word) (chain : Bool) :
    s.waitsForWalk ((s.begun c b).awaitWalk (s.orderOf c) window fob chain) c window fob chain := by
  have hst : ((s.begun c b).awaitWalk (s.orderOf c) window fob chain).store = (s.begun c b).store := by
    rw [State.awaitWalk_eq]
  have hbyte : ∀ x, ((s.begun c b).awaitWalk (s.orderOf c) window fob chain).byte x = (s.begun c b).byte x := by
    intro x; unfold State.byte; rw [hst]
  refine ⟨⟨s.orderOf c, by rw [State.awaitWalk_eq], rfl, fun n h1 h => State.orderOf_byte s c n h1 h⟩, ?_, ?_, ?_, ?_⟩
  · unfold State.awaitWalk State.requestWalk; dsimp only
    cases hw : s.walker.walk with
    | none =>
      rw [if_neg (by simp [hw])]
      rw [if_pos rfl, State.startWalk_walker]
      unfold State.begunWalk
      dsimp only
      rw [← State.home_begun s c b]
      rfl
    | some w =>
      rw [if_pos (by simp [hw])]
      rw [if_neg (by simp), ← hw]; rfl
  · show State.byte _ _ = _
    rw [hbyte]
    exact State.byte_writeCell_inside s c 0 [cellTaken] 0 (by simp)
  · intro x hx
    rw [hbyte, State.byte_begun _ _ _ _ hx]
  · rw [State.awaitWalk_eq]; rfl

/-! ## The completion event of an order's walk -/

/-- The state with the Order Unit idle, in which an order's completion applies its result. -/
def State.idled (s : State) : State := { s with board := { s.board with execution := none } }

/-- The state with the Walker free. -/
def State.walkerFreed (s : State) : State := { s with walker := { s.walker with walk := none } }

@[simp] theorem State.slot_idled (s : State) (k : SlotIx) : s.idled.slot k = s.slot k := rfl
@[simp] theorem State.key_idled (s : State) (i : RecIx) : s.idled.key i = s.key i := rfl
@[simp] theorem State.byte_idled (s : State) (x : Nat) : s.idled.byte x = s.byte x := rfl
@[simp] theorem State.ctx_idled (s : State) (c : CtxIx) : s.idled.ctx c = s.ctx c := rfl
@[simp] theorem State.online_idled (s : State) (m : ModIx) : s.idled.online m = s.online m := rfl

@[simp] theorem State.slot_walkerFreed (s : State) (k : SlotIx) : s.walkerFreed.slot k = s.slot k := rfl
@[simp] theorem State.key_walkerFreed (s : State) (i : RecIx) : s.walkerFreed.key i = s.key i := rfl
@[simp] theorem State.byte_walkerFreed (s : State) (x : Nat) : s.walkerFreed.byte x = s.byte x := rfl
@[simp] theorem State.port_walkerFreed (s : State) : s.walkerFreed.port = s.port := rfl
@[simp] theorem State.board_walkerFreed (s : State) : s.walkerFreed.board = s.board := rfl

/-- A result stands when the Walker is freed. -/
theorem State.holdsResult_walkerFreed {s : State} {c : CellIx} {code : Code} {d : Byte} {x : Half}
    (h : s.holdsResult c code d x) : s.walkerFreed.holdsResult c code d x := h

/-- With nothing else waiting, the completion event of an order's walk is the completion of the order; the Order Unit is
then idle and the Walker free. -/
theorem State.walkCompletion_order {s : State} {e : Execution} {w : Walk} (h : s.completing e w) (u : State)
    (hu : completeOrder e w s.idled = u) (hp : u.poster = s.poster) (hb : u.board = s.idled.board)
    (hq : u.walker.slotRequests = []) (ho : u.walker.orderRequest = none) :
    exec .walkCompletion s = .next u.walkerFreed := by
  obtain ⟨q, hw, ha, he, hi, _, _, hend⟩ := h
  have hended : w.ended = true := by
    unfold Walk.ended
    rcases hend with h | h
    · cases hf : w.found with
      | none => exact absurd hf h
      | some _ => rfl
    · rw [h]; simp
  have e1 : exec .walkCompletion s = .next (s.completeWalk w).finish := by
    show execWalkCompletion s = _
    unfold execWalkCompletion done; rw [hw]; simp only [hended, if_true]
  have hint : u.board.intake = [] := by rw [hb]; exact hi
  have e2 : s.applyWalk w = u := by
    unfold State.applyWalk; rw [ha, he, hi]
    show (completeOrder e w s.idled).runOrders [] = u
    rw [hu]; unfold State.runOrders; rw [← hint]
  have e3 : s.completeWalk w = u.walkerFreed := by
    unfold State.completeWalk; rw [e2]; dsimp only; rw [hq]
    unfold State.grantNext
    simp only [ho]
    unfold State.walkerFreed
    rw [← hq, ← ho]
  rw [e1, e3, State.finish_of_quiet]
  show u.poster.offered = []
  rw [hp]; exact q

/-! Each kind of order completes by its own definition. -/

theorem completeOrder_Enrol {e : Execution} {w : Walk} {s : State} (h : e.order.kind = 1) :
    completeOrder e w s = completeEnrolKey e.order w s := by unfold completeOrder; rw [h]; rfl
theorem completeOrder_Retire {e : Execution} {w : Walk} {s : State} (h : e.order.kind = 2) :
    completeOrder e w s = completeRetireKey e.order w s := by unfold completeOrder; rw [h]; rfl
theorem completeOrder_Arm {e : Execution} {w : Walk} {s : State} (h : e.order.kind = 3) :
    completeOrder e w s = completeArm true e.order w s := by unfold completeOrder; rw [h]; rfl
theorem completeOrder_Disarm {e : Execution} {w : Walk} {s : State} (h : e.order.kind = 4) :
    completeOrder e w s = completeArm false e.order w s := by unfold completeOrder; rw [h]; rfl
theorem completeOrder_Find {e : Execution} {w : Walk} {s : State} (h : e.order.kind = 5) :
    completeOrder e w s = completeFindKey e.order w s := by unfold completeOrder; rw [h]; rfl
theorem completeOrder_HandOut {e : Execution} {w : Walk} {s : State} (h : e.order.kind = 10) :
    completeOrder e w s = completeHandOut e w s := by unfold completeOrder; rw [h]; rfl
theorem completeOrder_DeclareLost {e : Execution} {w : Walk} {s : State} (h : e.order.kind = 12) :
    completeOrder e w s = completeDeclareLost e.order w s := by unfold completeOrder; rw [h]; rfl
theorem completeOrder_ExtendLoan {e : Execution} {w : Walk} {s : State} (h : e.order.kind = 13) :
    completeOrder e w s = completeExtendLoan e.order w s := by unfold completeOrder; rw [h]; rfl
theorem completeOrder_HomeSpan {e : Execution} {w : Walk} {s : State} (h : e.order.kind = 17) :
    completeOrder e w s = completeHomeSpan e.order s := by unfold completeOrder; rw [h]; rfl

/-! ## Tally events -/

/-- A tally event adds 1 to each counter that counts it and leaves the others. -/
theorem State.talliedOnce_tally (s : State) (kind : TallyKind) (m : Option ModIx) (cls : Option Byte) :
    s.talliedOnce (s.tally kind m cls) kind.ctorIdx m cls := by
  intro j
  have hc : (s.tally kind m cls).counters[j.val] =
      if s.counters[j.val].passes kind m cls then s.counters[j.val].add 1 else s.counters[j.val] := by
    unfold State.tally; dsimp only; rw [Vector.getElem_map]
  have hp : s.counters[j.val].passes kind m cls = true ↔ s.counters[j.val].counts kind.ctorIdx m cls := by
    unfold Counter.passes Counter.counts
    cases m <;> cases cls <;> simp [and_assoc]
  refine ⟨fun h => ?_, fun h => ?_⟩
  · rw [hc, if_pos (hp.2 h)]; unfold Counter.add
    have e1 : BitVec.ofNat 48 (s.counters[j.val].value.toNat + 1) = s.counters[j.val].value + 1 := by
      apply BitVec.eq_of_toNat_eq; simp
    have e2 : (decide (2 ^ 48 ≤ s.counters[j.val].value.toNat + 1)) = (s.counters[j.val].value == -1) := by
      rw [Bool.eq_iff_iff, decide_eq_true_iff, beq_iff_eq, ← BitVec.toNat_inj]
      have := s.counters[j.val].value.isLt
      show _ ↔ _ = 2 ^ 48 - 1
      omega
    rw [e1, e2]
  · rw [hc, if_neg (fun h' => h (hp.1 h'))]

end Sys2Proof.Machine
end

