-- ==== Sys2Proof/Laws/Keeps.lean ====
section
/-! SUPPORT. What commands can do, said once for whole-machine rules: a property of states that the few primitive changes
below keep is kept by every operation and every command (`exec_keeps`). -/

namespace Sys2Proof.Machine

/-- The changes the port's registers undergo, one constructor each. -/
inductive PortStep (p : Port) : Port → Prop where
  | setDone (c : CellIx) : PortStep p (p.setDone c)
  | clearDone (c : CellIx) : PortStep p (p.clearDone c)
  | postNews : PortStep p p.postNews
  | alert (b : Bool) : PortStep p { p with alert := b }
  | refused : PortStep p { p with writeRefused := true }
  | data (d : Half) : PortStep p { p with data := d }
  | status (ready survey : Bool) : PortStep p { p with ready := ready, survey := survey }
  | clearSticky (d : Half) : PortStep p (p.clearSticky d)
  | takeEnables (d : Half) : PortStep p (p.takeEnables d)
  | softReset : PortStep p p.softReset
  | reset : PortStep p Port.reset

/-- A property of states that the primitive changes keep: a write of the store, a step of the port, a parameter put in
force, a request joining or leaving the line command queue, and any change of what is not the store, the port, the
parameters, the waiting commands, or the line's two lists. -/
structure Closed (P : State → Prop) : Prop where
  write : ∀ s a bs, P s → P (s.writeStore a bs)
  port : ∀ s p, PortStep s.port p → P s → P { s with port := p }
  params : ∀ s id v, id = 1 ∨ parameterAccepted id v = true → P s → P { s with params := s.params.put id v }
  paramsReset : ∀ s, P s → P { s with params := Params.reset }
  queue : ∀ s r, s.mlc.queue.length < Config.lineQueueSize → P s →
    P { s with mlc := { s.mlc with queue := s.mlc.queue ++ [r] } }
  waiting : ∀ s r, ¬ s.mlc.queue.length < Config.lineQueueSize → P s →
    P { s with mlc := { s.mlc with waiting := s.mlc.waiting ++ [r] } }
  take : ∀ s r rest, s.mlc.queue = r :: rest → P s →
    P { s with mlc := { s.mlc with queue := rest ++ s.mlc.waiting.take 1, waiting := s.mlc.waiting.drop 1 } }
  purge : ∀ s m, P s → P { s with mlc := s.mlc.purge m }
  emptied : ∀ s c, c.queue = [] → c.waiting = [] → P s → P { s with mlc := c }
  rest : ∀ s t, P s → t.store = s.store → t.port = s.port → t.params = s.params → t.pending = s.pending →
    t.mlc.queue = s.mlc.queue → t.mlc.waiting = s.mlc.waiting → P t

/-- A list of steps that each keep a property keeps it. -/
theorem foldl_keeps {α : Type} (P : State → Prop) (f : State → α → State) (hf : ∀ s x, P s → P (f s x)) (l : List α)
    {s : State} (h : P s) : P (l.foldl f s) := by
  induction l generalizing s with
  | nil => exact h
  | cons x l ih => exact ih (hf s x h)

section
variable {P : State → Prop} (hP : Closed P)
include hP

/-! ## Ops -/

theorem Closed.loans {s : State} (h : P s) (l : Loans) : P { s with loans := l } := hP.rest s _ h rfl rfl rfl rfl rfl rfl
theorem Closed.board {s : State} (h : P s) (b : Board) : P { s with board := b } := hP.rest s _ h rfl rfl rfl rfl rfl rfl
theorem Closed.poster {s : State} (h : P s) (x : Poster) : P { s with poster := x } := hP.rest s _ h rfl rfl rfl rfl rfl rfl
theorem Closed.release {s : State} (h : P s) (r : Release) : P { s with release := r } :=
  hP.rest s _ h rfl rfl rfl rfl rfl rfl
theorem Closed.walker {s : State} (h : P s) (w : Walker) : P { s with walker := w } := hP.rest s _ h rfl rfl rfl rfl rfl rfl
theorem Closed.counters {s : State} (h : P s) (v : Vector Counter 8) : P { s with counters := v } :=
  hP.rest s _ h rfl rfl rfl rfl rfl rfl
theorem Closed.mlc {s : State} (h : P s) (c : Mlc) (hq : c.queue = s.mlc.queue) (hw : c.waiting = s.mlc.waiting) :
    P { s with mlc := c } := hP.rest s _ h rfl rfl rfl rfl hq hw
theorem Closed.setSlot {s : State} (h : P s) (k : SlotIx) (r : SlotRec) : P (s.setSlot k r) := hP.write s _ _ h
theorem Closed.modSlot {s : State} (h : P s) (k : SlotIx) (f : SlotRec → SlotRec) : P (s.modSlot k f) := hP.write s _ _ h
theorem Closed.setKey {s : State} (h : P s) (i : RecIx) (r : KeyRec) : P (s.setKey i r) := hP.write s _ _ h
theorem Closed.modKey {s : State} (h : P s) (i : RecIx) (f : KeyRec → KeyRec) : P (s.modKey i f) := hP.write s _ _ h
theorem Closed.setHome {s : State} (h : P s) (n : Nat) (v : Half) : P (s.setHome n v) := hP.write s _ _ h
theorem Closed.writeCell {s : State} (h : P s) (c : CellIx) (n : Nat) (bs : List Byte) : P (s.writeCell c n bs) :=
  hP.write s _ _ h
theorem Closed.modChip {s : State} (h : P s) (k : SlotIx) (f : Chip → Chip) : P (s.modChip k f) :=
  hP.rest s _ h rfl rfl rfl rfl rfl rfl
theorem Closed.setStep {s : State} (h : P s) (k : SlotIx) (x : IdStep) : P (s.setStep k x) := hP.modChip h k _
theorem Closed.modModule {s : State} (h : P s) (m : ModIx) (f : ModEntry → ModEntry) : P (s.modModule m f) :=
  hP.rest s _ h rfl rfl rfl rfl rfl rfl
theorem Closed.tally {s : State} (h : P s) (x : TallyKind) (m : Option ModIx) (c : Option Byte) : P (s.tally x m c) :=
  hP.rest s _ h rfl rfl rfl rfl rfl rfl
theorem Closed.minuteNotice {s : State} (h : P s) : P s.minuteNotice := hP.rest s _ h rfl rfl rfl rfl rfl rfl
theorem Closed.refuseWrite {s : State} (h : P s) : P s.refuseWrite := hP.port s _ .refused h

theorem Closed.writeResult {s : State} (h : P s) (c : CellIx) (r : Result) : P (s.writeResult c r) := by
  refine hP.port _ _ (.setDone c) (hP.writeCell (hP.writeCell ?_ c _ _) c _ _)
  exact foldl_keeps P _ (fun _ d h => hP.writeCell h c d.1 d.2) r.data h

theorem Closed.evalAlert {s : State} (h : P s) : P s.evalAlert := hP.port s _ (.alert _) h

/-! ## Alerts -/

theorem Closed.clearOwed {s : State} (h : P s) (o : Offer) : P (s.clearOwed o) := by
  unfold State.clearOwed
  split
  · exact hP.modModule h _ _
  · exact hP.modModule h _ _
  · exact hP.modSlot h _ _
  · exact hP.modKey h _ _
  · exact hP.modKey h _ _

theorem Closed.post {s : State} (h : P s) (e : EntryIx) (o : Offer) : P (s.post e o) :=
  hP.evalAlert (hP.port _ _ .postNews (hP.clearOwed (hP.write s _ _ h) o))

theorem Closed.deferAlert {s : State} (h : P s) (o : Offer) : P (s.deferAlert o) :=
  hP.rest s _ h rfl rfl rfl rfl rfl rfl

theorem Closed.takeOffer {s : State} (h : P s) (o : Offer) : P (s.takeOffer o) := by
  unfold State.takeOffer
  split
  · exact hP.post h _ o
  · exact hP.deferAlert h o

theorem Closed.offer {s : State} (h : P s) (o : Offer) : P (s.offer o) := hP.rest s _ h rfl rfl rfl rfl rfl rfl

theorem Closed.finish {s : State} (h : P s) : P s.finish := by
  unfold State.finish
  exact foldl_keeps P _ (fun _ o h => hP.takeOffer h o) _ (hP.rest s _ h rfl rfl rfl rfl rfl rfl)

theorem Closed.raiseSlotMark {s : State} (h : P s) (k : SlotIx) (m : SlotMark) (i : Option RecIx) :
    P (s.raiseSlotMark k m i) := hP.offer (hP.modSlot h k _) _

theorem Closed.raiseKeyMark {s : State} (h : P s) (i : RecIx) (m : KeyMark) (k : SlotIx) : P (s.raiseKeyMark i m k) :=
  hP.offer (hP.modKey h i _) _

theorem Closed.startAlertScan {s : State} (h : P s) : P s.startAlertScan := hP.rest s _ h rfl rfl rfl rfl rfl rfl

theorem Closed.completeAlertScan {s : State} (h : P s) : P s.completeAlertScan := by
  unfold State.completeAlertScan
  dsimp only
  split
  · split
    · exact hP.startAlertScan (hP.rest s _ h rfl rfl rfl rfl rfl rfl)
    · exact hP.rest s _ h rfl rfl rfl rfl rfl rfl
  · exact hP.rest s _ h rfl rfl rfl rfl rfl rfl

theorem Closed.postOwed {s : State} (h : P s) (c : ScanCursor) (os : List Offer) : P (s.postOwed c os) := by
  induction os generalizing s with
  | nil =>
    unfold State.postOwed
    split
    · exact hP.rest s _ h rfl rfl rfl rfl rfl rfl
    · exact hP.completeAlertScan h
  | cons o os ih =>
    unfold State.postOwed
    split
    · exact ih (hP.post h _ o)
    · exact hP.rest s _ h rfl rfl rfl rfl rfl rfl

/-! ## Slots -/

theorem Closed.offerLine {s : State} (h : P s) (r : LineRequest) : P (s.offerLine r) := by
  unfold State.offerLine
  extract_lets m
  split
  · exact h
  · split
    · exact hP.queue s r (by assumption) h
    · exact hP.tally (hP.waiting s r (by assumption) h) _ _ _

theorem Closed.requestLamp {s : State} (h : P s) (k : SlotIx) : P (s.requestLamp k) := by
  unfold State.requestLamp
  split
  · exact h
  · exact hP.offerLine h _

theorem Closed.offerRead {s : State} (h : P s) (k : SlotIx) : P (s.offerRead k) :=
  hP.offerLine (hP.modChip h k _) _

theorem Closed.countSlots {s : State} (h : P s) (a b : SlotState) : P (s.countSlots a b) :=
  hP.rest s _ h rfl rfl rfl rfl rfl rfl

theorem Closed.updateSlot {s : State} (h : P s) (k : SlotIx) (f : SlotRec → SlotRec) : P (s.updateSlot k f) := by
  unfold State.updateSlot
  extract_lets old new lamp s1 s2
  have h1 : P s1 := hP.countSlots (hP.setSlot h k _) _ _
  have h2 : P s2 := by
    show P (if old.state ≠ new.state then s1.modChip k _ else s1)
    split
    · exact hP.modChip h1 k _
    · exact h1
  split
  · exact hP.requestLamp h2 k
  · exact h2

theorem Closed.emptySlot {s : State} (h : P s) (k : SlotIx) : P (s.emptySlot k) := hP.updateSlot h k _

theorem Closed.enterIdentifying {s : State} (h : P s) (k : SlotIx) : P (s.enterIdentifying k) := by
  unfold State.enterIdentifying
  extract_lets s1 s2
  have h2 : P s2 := hP.setStep (hP.updateSlot h k _) k _
  split
  · exact h2
  · exact hP.offerRead h2 k

theorem Closed.becomeStranger {s : State} (h : P s) (k : SlotIx) (r : Reason) (f : Word) (i : Option RecIx) :
    P (s.becomeStranger k r f i) := by
  unfold State.becomeStranger
  extract_lets q s1 s2
  have h2 : P s2 := hP.tally (hP.updateSlot h k _) _ _ _
  split
  · exact h2
  · exact hP.raiseSlotMark h2 k _ i

theorem Closed.comeToRest {s : State} (h : P s) (k : SlotIx) (i : RecIx) : P (s.comeToRest k i) := by
  unfold State.comeToRest
  extract_lets s1 s2
  have h2 : P s2 := hP.updateSlot (hP.modKey h i _) k _
  split
  · exact hP.raiseSlotMark h2 k _ _
  · exact h2

theorem Closed.withSlot {s : State} (h : P s) (o : Order) (act : SlotIx → State → State)
    (ha : ∀ k s, P s → P (act k s)) : P (withSlot o s act) := by
  unfold Machine.withSlot
  split
  · exact ha _ s h
  · exact hP.writeResult h _ _

theorem Closed.beginPinSlot {s : State} (h : P s) (o : Order) : P (beginPinSlot o s) := by
  refine hP.withSlot h o _ (fun k s h => ?_)
  dsimp only
  repeat' split
  all_goals first | exact hP.writeResult h _ _ | exact hP.writeResult (hP.modSlot h _ _) _ _

theorem Closed.beginUnpinSlot {s : State} (h : P s) (o : Order) : P (beginUnpinSlot o s) :=
  hP.withSlot h o _ (fun k _ h => hP.writeResult (hP.modSlot h k _) _ _)

theorem Closed.beginWithdrawSlot {s : State} (h : P s) (o : Order) : P (beginWithdrawSlot o s) := by
  refine hP.withSlot h o _ (fun k s h => ?_)
  dsimp only
  repeat' split
  all_goals first | exact hP.writeResult h _ _ | exact hP.writeResult (hP.updateSlot h _ _) _ _

theorem Closed.beginRestoreSlot {s : State} (h : P s) (o : Order) : P (beginRestoreSlot o s) := by
  refine hP.withSlot h o _ (fun k s h => ?_)
  dsimp only
  split
  · exact hP.writeResult h _ _
  · exact hP.writeResult (hP.modChip (hP.updateSlot h _ _) _ _) _ _

/-! ## Loan Watch -/

theorem Closed.insertDue {s : State} (h : P s) (i : RecIx) (d : Word) : P (s.insertDue i d) :=
  hP.rest s _ h rfl rfl rfl rfl rfl rfl
theorem Closed.removeDue {s : State} (h : P s) (i : RecIx) : P (s.removeDue i) := hP.rest s _ h rfl rfl rfl rfl rfl rfl

theorem Closed.visit {s : State} (h : P s) (p : Pass) (e : DueEntry) : P (s.visit p e) := by
  unfold State.visit
  extract_lets r level announced overdue s1 src s2
  have h2 : P s2 := hP.rest s1 _ (hP.setKey h _ _) rfl rfl rfl rfl rfl rfl
  split
  · exact hP.offer h2 _
  · exact h2

theorem Closed.passStep {s : State} (h : P s) (p : Pass) : P (s.passStep p) := by
  unfold State.passStep
  split
  · exact hP.rest s _ h rfl rfl rfl rfl rfl rfl
  · split
    · exact hP.rest s _ h rfl rfl rfl rfl rfl rfl
    · exact hP.visit h p _

theorem Closed.minuteEvent {s : State} (h : P s) : P s.minuteEvent := by
  unfold State.minuteEvent
  extract_lets m src s1
  have h1 : P s1 := hP.minuteNotice (hP.rest s _ h rfl rfl rfl rfl rfl rfl)
  split
  · exact h1
  · split
    · exact hP.rest s1 _ h1 rfl rfl rfl rfl rfl rfl
    · exact hP.rest s1 _ h1 rfl rfl rfl rfl rfl rfl

theorem Closed.beginSetClock {s : State} (h : P s) (o : Order) : P (beginSetClock o s) := by
  unfold Machine.beginSetClock
  exact hP.writeResult (hP.loans h _) _ _

/-! ## Release Unit -/

theorem Closed.setCtx {s : State} (h : P s) (c : CtxIx) (x : Option Context) : P (s.setCtx c x) :=
  hP.rest s _ h rfl rfl rfl rfl rfl rfl

theorem Closed.endCtx {s : State} (h : P s) (c : CtxIx) : P (s.endCtx c) := by
  unfold State.endCtx
  split
  · exact h
  · exact hP.rest s _ h rfl rfl rfl rfl rfl rfl

theorem Closed.writeOutcome {s : State} (h : P s) (c : CtxIx) (x : Context) (k : Code) : P (s.writeOutcome c x k) := by
  unfold State.writeOutcome
  split
  · exact h
  · exact hP.writeResult h _ _

theorem Closed.tallyKey {s : State} (h : P s) (x : TallyKind) (k : SlotIx) (i : RecIx) : P (s.tallyKey x k i) :=
  hP.tally h _ _ _

theorem Closed.askLatch {s : State} (h : P s) (k : SlotIx) (a : Action) : P (s.askLatch k a) := by
  unfold State.askLatch
  split
  · exact h
  · split
    · exact hP.modChip h k _
    · exact hP.updateSlot (hP.modChip (hP.offerLine h _) k _) k _

theorem Closed.offerOwed {s : State} (h : P s) (k : SlotIx) : P (s.offerOwed k) := by
  unfold State.offerOwed
  split
  · exact h
  · exact hP.askLatch (hP.modChip h k _) k _

theorem Closed.grant {s : State} (h : P s) (m : ModIx) (c : CtxIx) : P (s.grant m c) := by
  unfold State.grant
  split
  · exact h
  · exact hP.askLatch (hP.setCtx (hP.release h _) c _) _ _

theorem Closed.grantAlong {s : State} (h : P s) (m : ModIx) (cs : List CtxIx) : P (s.grantAlong m cs) := by
  induction cs generalizing s with
  | nil => exact h
  | cons c cs ih =>
    unfold State.grantAlong
    split
    · exact ih (hP.grant h m c)
    · exact h

theorem Closed.grantWaiting {s : State} (h : P s) (m : ModIx) : P (s.grantWaiting m) := hP.grantAlong h m _

theorem Closed.accept {s : State} (h : P s) (e : Execution) (i : RecIx) (k : SlotIx) (c : CtxIx) : P (s.accept e i k c) := by
  unfold State.accept
  extract_lets m s1 s2 x src s3 s4 s5
  have h4 : P s4 := hP.tallyKey (hP.release (hP.updateSlot (hP.modKey h i _) k _) _) _ _ _
  split
  · exact hP.askLatch (hP.setCtx h4 c _) k _
  · exact hP.tallyKey (hP.release (hP.setCtx h4 c _) _) _ _ _

theorem Closed.backToHeld {s : State} (h : P s) (i : RecIx) (k : SlotIx) : P (s.backToHeld i k) :=
  hP.updateSlot (hP.modKey h i _) k _

theorem Closed.openLoan {s : State} (h : P s) (x : Context) (i : RecIx) : P (s.openLoan x i) :=
  hP.release (hP.insertDue (hP.modKey h i _) i _) _

theorem Closed.collect {s : State} (h : P s) (c : CtxIx) (x : Context) (i : RecIx) : P (s.collect c x i) :=
  hP.askLatch (hP.setCtx (hP.tallyKey (hP.writeOutcome (hP.emptySlot (hP.openLoan h x i) _) c x _) _ _ _) c _) _ _

theorem Closed.removedWaiting {s : State} (h : P s) (c : CtxIx) (x : Context) (i : RecIx) : P (s.removedWaiting c x i) :=
  hP.endCtx (hP.tallyKey (hP.writeOutcome (hP.emptySlot (hP.raiseKeyMark (hP.modKey h i _) i _ _) _) c x _) _ _ _) c

theorem Closed.takenLate {s : State} (h : P s) (c : CtxIx) (x : Context) (i : RecIx) : P (s.takenLate c x i) := by
  unfold State.takenLate
  extract_lets s1 s2 s3 s4
  have h4 : P s4 := hP.setCtx (hP.tallyKey (hP.writeOutcome (hP.emptySlot (hP.openLoan h x i) _) c x _) _ _ _) c _
  split
  · exact hP.endCtx h4 c
  · exact h4

theorem Closed.removal {s : State} (h : P s) (k : SlotIx) : P (s.removal k) := by
  unfold State.removal
  repeat' split
  all_goals first
    | exact h | exact hP.removedWaiting h _ _ _ | exact hP.collect h _ _ _ | exact hP.takenLate h _ _ _

theorem Closed.beginRelatch {s : State} (h : P s) (c : CtxIx) (x : Context) : P (s.beginRelatch c x) := by
  unfold State.beginRelatch
  exact hP.updateSlot (hP.setCtx (hP.askLatch h _ _) c _) _ _

theorem Closed.endSettle {s : State} (h : P s) (c : CtxIx) (x : Context) : P (s.endSettle c x) := by
  unfold State.endSettle
  split
  · exact hP.endCtx h c
  · extract_lets s1
    have h1 : P s1 := hP.backToHeld h _ _
    split
    · exact hP.endCtx (hP.writeOutcome h1 c x _) c
    · exact hP.endCtx (hP.tallyKey (hP.writeOutcome h1 c x _) _ _ _) c

theorem Closed.settleNotice {s : State} (h : P s) (c : CtxIx) : P (s.settleNotice c) := by
  unfold State.settleNotice
  repeat' split
  all_goals first | exact h | exact hP.endSettle h c _ | exact hP.setCtx h c _

theorem Closed.replyProcessed {s : State} (h : P s) (m : ModIx) : P (s.replyProcessed m) :=
  foldl_keeps P _ (fun s c h => by
    split
    · exact hP.settleNotice h c
    · exact h) _ h

theorem Closed.afterLatch {s : State} (h : P s) (k : SlotIx) : P (s.afterLatch k) := by
  unfold State.afterLatch
  extract_lets s1
  have h1 : P s1 := hP.offerOwed h k
  split
  · exact hP.grantWaiting h1 _
  · exact h1

theorem Closed.openingFailed {s : State} (h : P s) (c : CtxIx) (x : Context) (k : SlotIx) : P (s.openingFailed c x k) := by
  unfold State.openingFailed
  extract_lets s1 s2
  have h1 : P s1 := by
    show P (match x.key with | some i => s.backToHeld i k | none => s)
    split
    · exact hP.backToHeld h _ _
    · exact h
  exact hP.endCtx (hP.writeOutcome h1 c x _) c

theorem Closed.latchAnswered {s : State} (h : P s) (k : SlotIx) (b : Bool) : P (s.latchAnswered k b) := by
  unfold State.latchAnswered
  extract_lets s1
  have h1 : P s1 := hP.modChip h k _
  split
  · exact h1
  · exact hP.raiseSlotMark h1 k _ _

theorem Closed.openReplyCtx {s : State} (h : P s) (k : SlotIx) (v : Sensed) (c : CtxIx) (x : Context) :
    P (s.openReplyCtx k v c x) := by
  unfold State.openReplyCtx
  dsimp only
  split
  · split
    · split
      · exact hP.askLatch (hP.setCtx (hP.updateSlot h k _) c _) k _
      · exact hP.setCtx (hP.updateSlot h k _) c _
    · exact hP.openingFailed (hP.updateSlot h k _) c x k
  · split
    · exact hP.endCtx (hP.modChip (hP.updateSlot h k _) k _) c
    · exact hP.updateSlot h k _
  · exact hP.updateSlot h k _

theorem Closed.openReply {s : State} (h : P s) (k : SlotIx) (v : Sensed) : P (s.openReply k v) := by
  unfold State.openReply
  extract_lets s1 s2
  have h1 : P s1 := hP.latchAnswered h k _
  refine hP.afterLatch ?_ k
  show P (match s1.replyCtx k with
    | none => s1.updateSlot k (fun r => { r with latch := v.field })
    | some c => match s1.ctx c with
      | none => s1.updateSlot k (fun r => { r with latch := v.field })
      | some x => s1.openReplyCtx k v c x)
  split
  · exact hP.updateSlot h1 k _
  · split
    · exact hP.updateSlot h1 k _
    · exact hP.openReplyCtx h1 k v _ _

theorem Closed.closeReplyCtx {s : State} (h : P s) (c : CtxIx) (x : Context) : P (s.closeReplyCtx c x) := by
  unfold State.closeReplyCtx
  repeat' split
  all_goals first | exact h | exact hP.endCtx h c | exact hP.setCtx h c _

theorem Closed.closeReply {s : State} (h : P s) (k : SlotIx) (v : Sensed) : P (s.closeReply k v) := by
  unfold State.closeReply
  extract_lets s1 s2 s3
  have h2 : P s2 := hP.updateSlot (hP.latchAnswered h k _) k _
  refine hP.afterLatch ?_ k
  show P (match s2.replyCtx k with
    | none => s2
    | some c => match s2.ctx c with
      | none => s2
      | some x => s2.closeReplyCtx c x)
  split
  · exact h2
  · split
    · exact h2
    · exact hP.closeReplyCtx h2 _ _

theorem Closed.latchReplied {s : State} (h : P s) (k : SlotIx) (a : Action) (v : Sensed) : P (s.latchReplied k a v) := by
  cases a
  · exact hP.closeReply h k v
  · exact hP.openReply h k v

theorem Closed.reissueCloses {s : State} (h : P s) : P s.reissueCloses :=
  foldl_keeps P _ (fun s k h => by
    split
    · exact hP.modChip (hP.askLatch h k _) k _
    · exact h) _ h

theorem Closed.roundEndNotice {s : State} (h : P s) : P s.roundEndNotice := by
  unfold State.roundEndNotice
  split
  · exact hP.release h _
  · exact hP.reissueCloses (hP.release h _)

theorem Closed.cancelled {s t : State} (h : P s) (c : CtxIx) (x : Context) (e : s.cancelled c x = some t) : P t := by
  unfold State.cancelled at e
  split at e
  · extract_lets s1 at e
    have h1 : P s1 := by
      show P (match x.key with | some i => s.backToHeld i x.slot | none => s)
      split
      · exact hP.backToHeld h _ _
      · exact h
    cases e; exact hP.endCtx (hP.writeOutcome h1 c x _) c
  · split at e
    · cases e
    · cases e; exact hP.setCtx h c _
  · cases e; exact hP.beginRelatch h c _
  · cases e
  · cases e

theorem Closed.beginCancelHandOut {s : State} (h : P s) (o : Order) : P (beginCancelHandOut o s) := by
  unfold Machine.beginCancelHandOut
  extract_lets refuse
  repeat' split
  all_goals first | exact hP.writeResult h _ _ | skip
  next he => exact hP.writeResult (hP.cancelled h _ _ he) _ _

theorem Closed.checkNamed {s : State} (h : P s) (k : SlotIx) : P (s.checkNamed k) := by
  unfold State.checkNamed
  split
  · exact hP.modKey h _ _
  · exact h

theorem Closed.sensorFaultEnd {s : State} (h : P s) (k : SlotIx) : P (s.sensorFaultEnd k) := by
  unfold State.sensorFaultEnd
  split
  · exact h
  · split
    · exact h
    · refine hP.endCtx (hP.writeOutcome ?_ _ _ _) _
      split
      · exact hP.askLatch h k _
      · exact h

theorem Closed.enterFault {s : State} (h : P s) (k : SlotIx) : P (s.enterFault k) := by
  unfold State.enterFault
  extract_lets st named s1 s2 s3
  have h1 : P s1 := by
    show P (if named then s.checkNamed k else s)
    split
    · exact hP.checkNamed h k
    · exact h
  have h3 : P s3 := hP.raiseSlotMark (hP.updateSlot h1 k _) k _ _
  split
  · exact hP.sensorFaultEnd h3 k
  · exact h3

theorem Closed.lossCtx {s : State} (h : P s) (m : ModIx) (c : CtxIx) : P (s.lossCtx m c) := by
  unfold State.lossCtx
  split
  · exact h
  · split
    · exact h
    · split
      · exact hP.endCtx h c
      · exact hP.endCtx (hP.writeOutcome h c _ _) c

theorem Closed.lossSlot {s : State} (h : P s) (k : SlotIx) : P (s.lossSlot k) := by
  unfold State.lossSlot
  extract_lets st s1
  have h1 : P s1 := hP.modChip h k _
  clear_value st s1
  cases st
  · exact h1
  · exact hP.updateSlot h1 k _
  · exact hP.updateSlot (hP.checkNamed h1 k) k _
  · exact hP.updateSlot h1 k _
  · exact hP.updateSlot (hP.checkNamed h1 k) k _
  · exact hP.updateSlot (hP.checkNamed h1 k) k _
  · exact hP.setStep (hP.modSlot h1 k _) k _
  · exact h1
  · exact h1

theorem Closed.resetCtx {s : State} (h : P s) (c : CtxIx) : P (s.resetCtx c) := by
  unfold State.resetCtx
  split
  · exact h
  · split
    · exact h
    · exact hP.updateSlot (hP.modKey h _ _) _ _

/-! ## Returns -/

theorem Closed.closeLoan {s : State} (h : P s) (i : RecIx) (k : SlotIx) : P (s.closeLoan i k) := by
  unfold State.closeLoan
  extract_lets r s1 s2 s3
  have h2 : P s2 := hP.modKey (hP.removeDue h i) i _
  have h3 : P s3 := by
    show P (if 1 ≤ r.announced.toNat then s2.raiseKeyMark i .returnedLate k else s2)
    split
    · exact hP.raiseKeyMark h2 i _ k
    · exact h2
  exact hP.tallyKey h3 _ _ _

theorem Closed.dropReference {s : State} (h : P s) (i : RecIx) : P (s.dropReference i) := by
  unfold State.dropReference
  split
  · exact hP.modSlot h _ _
  · exact h

theorem Closed.identified {s : State} (h : P s) (k : SlotIx) (f : Word) (i : Option RecIx) : P (s.identified k f i) := by
  unfold State.identified
  split
  · exact hP.becomeStranger h k _ _ _
  · split
    · exact hP.comeToRest h k _
    · exact hP.comeToRest (hP.closeLoan h _ k) k _
    · exact hP.comeToRest (hP.raiseKeyMark h _ _ k) k _
    · exact hP.comeToRest (hP.raiseKeyMark h _ _ k) k _
    · exact hP.comeToRest (hP.dropReference h _) k _
    · exact hP.becomeStranger h k _ _ _
    · exact hP.becomeStranger h k _ _ _
    · exact hP.becomeStranger h k _ _ _

theorem Closed.lookupResult {s : State} (h : P s) (k : SlotIx) (f : Word) (i : Option RecIx) : P (s.lookupResult k f i) := by
  unfold State.lookupResult
  split
  · exact hP.identified h k f i
  · exact h

theorem Closed.startWalk {s : State} (h : P s) (a : Asker) (f : Word) (c : Bool) : P (s.startWalk a f c) := hP.walker h _

theorem Closed.grantNext {s : State} (h : P s) (qs : List SlotRequest) : P (s.grantNext qs) := by
  induction qs generalizing s with
  | nil =>
    unfold State.grantNext
    extract_lets src s1
    have h1 : P s1 := hP.walker h _
    split
    · exact h1
    · exact hP.startWalk (hP.walker h1 _) _ _ _
  | cons q qs ih =>
    unfold State.grantNext
    split
    · exact ih (hP.lookupResult h _ _ _)
    · exact hP.startWalk (hP.walker h _) _ _ _

theorem Closed.requestLookup {s : State} (h : P s) (k : SlotIx) (f : Word) : P (s.requestLookup k f) := by
  unfold State.requestLookup
  extract_lets l
  split
  · exact hP.walker h _
  · exact hP.grantNext h l

theorem Closed.requestWalk {s : State} (h : P s) (f : Word) (c : Bool) : P (s.requestWalk f c) := by
  unfold State.requestWalk
  split
  · exact hP.walker h _
  · exact hP.startWalk h _ _ _

theorem Closed.stepWalk {s : State} (h : P s) (w : Walk) (i : RecIx) : P (s.stepWalk w i) := hP.tally (hP.walker h _) _ _ _

theorem Closed.identificationRead {s : State} (h : P s) (k : SlotIx) (f : Option Word) : P (s.identificationRead k f) := by
  unfold State.identificationRead
  extract_lets n s1
  have h1 : P s1 := hP.modSlot h k _
  split
  · exact hP.requestLookup (hP.setStep (hP.modSlot h1 k _) k _) k _
  · split
    · exact hP.offerRead h1 k
    · exact hP.becomeStranger h1 k _ _ _

theorem Closed.keyUnaccounted {s : State} (h : P s) (k : SlotIx) (i : RecIx) : P (s.keyUnaccounted k i) :=
  hP.tallyKey (hP.raiseKeyMark (hP.modKey h i _) i _ k) _ _ _

theorem Closed.verificationRead {s : State} (h : P s) (k : SlotIx) (i : RecIx) (f : Option Word) :
    P (s.verificationRead k i f) := by
  unfold State.verificationRead
  extract_lets n s1
  have h1 : P s1 := hP.modSlot h k _
  split
  · split
    · exact hP.updateSlot (hP.modKey h1 i _) k _
    · exact hP.requestLookup (hP.setStep (hP.updateSlot (hP.keyUnaccounted h1 k i) k _) k _) k _
  · split
    · exact hP.offerRead h1 k
    · exact hP.becomeStranger (hP.keyUnaccounted h1 k i) k _ _ _

theorem Closed.readAfterLoss {s : State} (h : P s) (k : SlotIx) (f : Option Word) : P (s.readAfterLoss k f) :=
  hP.identificationRead (hP.setStep (hP.updateSlot h k _) k _) k f

theorem Closed.fobRead {s : State} (h : P s) (k : SlotIx) (f : Option Word) : P (s.fobRead k f) := by
  unfold State.fobRead
  extract_lets s1
  have h1 : P s1 := hP.modChip h k _
  split
  · exact hP.identificationRead h1 k f
  · split
    · split
      · exact hP.verificationRead h1 k _ f
      · exact hP.readAfterLoss h1 k f
    · exact h1

theorem Closed.forcedRemoval {s : State} (h : P s) (k : SlotIx) : P (s.forcedRemoval k) := by
  unfold State.forcedRemoval
  split
  · exact hP.emptySlot h k
  · exact hP.tallyKey (hP.emptySlot (hP.raiseKeyMark (hP.modKey h _ _) _ _ k) k) _ _ _

theorem Closed.unverifiedAbsent {s : State} (h : P s) (k : SlotIx) : P (s.unverifiedAbsent k) := by
  unfold State.unverifiedAbsent
  split
  · exact hP.emptySlot (hP.keyUnaccounted h k _) k
  · exact hP.emptySlot h k

theorem Closed.unverifiedPresent {s : State} (h : P s) (k : SlotIx) : P (s.unverifiedPresent k) := by
  unfold State.unverifiedPresent
  split
  · exact h
  · split
    · extract_lets s1
      have h1 : P s1 := hP.setStep (hP.modSlot h k _) k _
      split
      · exact h1
      · exact hP.offerRead h1 k
    · exact hP.enterIdentifying h k

theorem Closed.leaveFault {s : State} (h : P s) (k : SlotIx) (b : Bool) : P (s.leaveFault k b) := by
  unfold State.leaveFault
  split
  · exact hP.modChip (hP.updateSlot h k _) k _
  · split
    · exact hP.enterIdentifying h k
    · exact hP.emptySlot h k

theorem Closed.presenceReport {s : State} (h : P s) (k : SlotIx) (b : Bool) : P (s.presenceReport k b) := by
  unfold State.presenceReport
  split
  all_goals first
    | exact h
    | exact hP.enterIdentifying h k
    | exact hP.emptySlot h k
    | exact hP.forcedRemoval h k
    | exact hP.removal h k
    | exact hP.unverifiedPresent h k
    | exact hP.unverifiedAbsent h k
    | exact hP.leaveFault h k _

/-! ## Presence Engine -/

theorem Closed.report {s : State} (h : P s) (k : SlotIx) (v : Sensing) : P (s.report k v) := by
  unfold State.report
  repeat' split
  all_goals first | exact h | exact hP.enterFault h k | exact hP.presenceReport h k _

theorem Closed.drift {s : State} (h : P s) (k : SlotIx) (b : SlotRec) (v : Sensing) (c : Half) : P (s.drift k b v c) := by
  unfold State.drift
  extract_lets r
  split
  · exact hP.modSlot h k _
  · exact h

theorem Closed.processCount {s : State} (h : P s) (k : SlotIx) (c : Half) : P (s.processCount k c) := by
  unfold State.processCount
  extract_lets r v s1 s2
  split
  · exact hP.modSlot h k _
  · exact hP.drift (hP.report (hP.modChip (hP.setSlot h k _) k _) k v) k r v c

theorem Closed.handCounts {s : State} (h : P s) (m : ModIx) (l : List Half) (w : Nat) : P (s.handCounts m l w) := by
  unfold State.handCounts
  split
  · exact hP.tally h _ _ _
  · extract_lets s1
    have h1 : P s1 := foldl_keeps P _ (fun s p h => hP.processCount h _ _) _ h
    exact hP.replyProcessed h1 m

theorem Closed.seedSlot {s : State} (h : P s) (k : SlotIx) (c : Half) (f : Option (Option Word)) : P (s.seedSlot k c f) := by
  unfold State.seedSlot
  exact hP.modChip (hP.modSlot h k _) k _

/-! ## Directory orders -/

theorem Closed.awaitWalk {s : State} (h : P s) (o : Order) (w : Nat) (f : Word) (c : Bool) : P (s.awaitWalk o w f c) := by
  unfold State.awaitWalk
  exact hP.requestWalk (hP.board h _) f c

theorem Closed.ifFob {s : State} (h : P s) (o : Order) (act : State → State) (ha : ∀ s, P s → P (act s)) :
    P (Machine.withFob o s act) := by
  unfold Machine.withFob
  split
  · exact hP.writeResult h _ _
  · exact ha s h

theorem Closed.beginWalk {s : State} (h : P s) (o : Order) : P (Machine.withFob o s (fun s => s.awaitWalk o 0 o.fob true)) :=
  hP.ifFob h o _ (fun _ h => hP.awaitWalk h o _ _ _)

theorem Closed.beginExtendLoan {s : State} (h : P s) (o : Order) : P (beginExtendLoan o s) := by
  refine hP.ifFob h o _ (fun s h => ?_)
  split
  · exact hP.writeResult h _ _
  · exact hP.awaitWalk h o _ _ _

theorem Closed.beginHandOut {s : State} (h : P s) (o : Order) : P (beginHandOut o s) := by
  refine hP.ifFob h o _ (fun s h => ?_)
  repeat' split
  all_goals first | exact hP.writeResult h _ _ | exact hP.awaitWalk h o _ _ _

theorem Closed.noSuchFob {s : State} (h : P s) (o : Order) (w : Walk) : P (s.noSuchFob o w) := hP.writeResult h _ _

theorem Closed.relink {s : State} (h : P s) (w : Walk) (v : Half) : P (s.relink w v) := by
  unfold State.relink
  split
  · exact hP.modKey h _ _
  · exact hP.setHome h _ _

theorem Closed.linkNew {s : State} (h : P s) (w : Walk) (i : RecIx) (r : KeyRec) : P (s.linkNew w i r) :=
  hP.setKey (hP.relink (hP.walker h _) w _) i r

theorem Closed.enrolled {s : State} (h : P s) (o : Order) (i : RecIx) : P (s.enrolled o i) := by
  unfold State.enrolled
  extract_lets ok
  split
  · exact hP.writeResult (hP.insertDue h i _) _ _
  · split
    · exact hP.writeResult (hP.comeToRest h _ i) _ _
    · exact hP.writeResult h _ _

theorem Closed.completeEnrolKey {s : State} (h : P s) (o : Order) (w : Walk) : P (completeEnrolKey o w s) := by
  unfold Machine.completeEnrolKey
  split
  · exact hP.writeResult h _ _
  · split
    · exact hP.writeResult h _ _
    · split
      · exact hP.writeResult h _ _
      · exact hP.enrolled (hP.linkNew h w _ _) o _

theorem Closed.retire {s : State} (h : P s) (w : Walk) (i : RecIx) : P (s.retire w i) :=
  hP.walker (hP.setKey (hP.relink h w _) i _) _

theorem Closed.completeRetireKey {s : State} (h : P s) (o : Order) (w : Walk) : P (completeRetireKey o w s) := by
  unfold Machine.completeRetireKey
  split
  · exact hP.noSuchFob h o w
  · extract_lets st
    split
    · exact hP.writeResult (hP.retire h w _) _ _
    · exact hP.writeResult h _ _

theorem Closed.completeArm {s : State} (h : P s) (b : Bool) (o : Order) (w : Walk) : P (completeArm b o w s) := by
  unfold Machine.completeArm
  split
  · exact hP.noSuchFob h o w
  · exact hP.writeResult (hP.modKey h _ _) _ _

theorem Closed.completeFindKey {s : State} (h : P s) (o : Order) (w : Walk) : P (completeFindKey o w s) := by
  unfold Machine.completeFindKey
  split
  · exact hP.noSuchFob h o w
  · exact hP.writeResult h _ _

theorem Closed.completeHandOut {s : State} (h : P s) (e : Execution) (w : Walk) : P (completeHandOut e w s) := by
  unfold Machine.completeHandOut
  split
  · exact hP.noSuchFob h e.order w
  · unfold State.handOutFound
    extract_lets r refuse
    repeat' split
    all_goals first | with_reducible exact hP.writeResult h _ _ | exact hP.accept h e _ _ _

theorem Closed.completeDeclareLost {s : State} (h : P s) (o : Order) (w : Walk) : P (completeDeclareLost o w s) := by
  unfold Machine.completeDeclareLost
  split
  · exact hP.noSuchFob h o w
  · split
    · exact hP.writeResult (hP.modKey (hP.removeDue h _) _ _) _ _
    · exact hP.writeResult (hP.modKey h _ _) _ _
    · exact hP.writeResult (hP.modKey (hP.dropReference h _) _ _) _ _
    all_goals exact hP.writeResult h _ _

theorem Closed.completeExtendLoan {s : State} (h : P s) (o : Order) (w : Walk) : P (completeExtendLoan o w s) := by
  unfold Machine.completeExtendLoan
  split
  · exact hP.noSuchFob h o w
  · extract_lets d
    repeat' split
    all_goals first
      | exact hP.writeResult h _ _
      | exact hP.writeResult (hP.insertDue (hP.modKey (hP.removeDue h _) _ _) _ _) _ _

/-! ## Parameters and counters -/

theorem Closed.rescaleBaselines {s : State} (h : P s) (a b : Nat) : P (s.rescaleBaselines a b) :=
  foldl_keeps P _ (fun s k h => by
    dsimp only
    split
    · exact hP.setSlot h k _
    · exact h) _ h

theorem Closed.surveyStale {s : State} (h : P s) (v : Survey) : P (s.surveyStale v) := by
  refine hP.tally (hP.mlc h _ ?_ ?_) _ _ _ <;> rfl

theorem Closed.discardSurveyCounts {s : State} (h : P s) : P s.discardSurveyCounts := by
  unfold State.discardSurveyCounts
  split
  · exact h
  · split
    · exact hP.surveyStale h _
    · exact h

theorem Closed.putParameter {s : State} (h : P s) (id v : Nat) (ok : id = 1 ∨ parameterAccepted id v = true) :
    P (s.putParameter id v) := by
  unfold State.putParameter
  extract_lets old s1 s2
  have h1 : P s1 := hP.params s id v ok h
  have h2 : P s2 := by
    show P (if s1.params.window ≠ old then (s1.rescaleBaselines s1.params.window old).discardSurveyCounts else s1)
    split
    · exact hP.discardSurveyCounts (hP.rescaleBaselines h1 _ _)
    · exact h1
  split
  · exact hP.evalAlert h2
  · exact h2

theorem Closed.beginSetParameter {s : State} (h : P s) (o : Order) : P (beginSetParameter o s) := by
  unfold Machine.beginSetParameter
  split
  · exact hP.writeResult h _ _
  · rename_i ok
    split
    · exact hP.awaitWalk h o _ _ _
    · exact hP.writeResult (hP.putParameter h _ _ (.inr (by simpa using ok))) _ _

theorem Closed.completeHomeSpan {s : State} (h : P s) (o : Order) : P (completeHomeSpan o s) := by
  unfold Machine.completeHomeSpan
  split
  · exact hP.writeResult h _ _
  · exact hP.writeResult (hP.putParameter h 1 _ (.inl rfl)) _ _

theorem Closed.beginSetCounter {s : State} (h : P s) (o : Order) : P (beginSetCounter o s) := by
  unfold Machine.beginSetCounter
  extract_lets mode kinds
  split
  · split
    · exact hP.writeResult h _ _
    · exact hP.writeResult (hP.counters h _) _ _
  · exact hP.writeResult h _ _

theorem Closed.beginReadCounters {s : State} (h : P s) (o : Order) : P (beginReadCounters o s) := by
  unfold Machine.beginReadCounters
  extract_lets copy s1
  have h1 : P s1 := by
    show P (if flag (o.byte 8) 0 then { s with counters := _ } else s)
    split
    · exact hP.counters h _
    · exact h
  exact hP.writeResult h1 _ _

/-! ## Order Unit -/

theorem Closed.beginOrder {s : State} (h : P s) (o : Order) : P (s.beginOrder o) := by
  unfold State.beginOrder
  split
  all_goals first
    | exact hP.writeResult h _ _
    | exact hP.beginWalk h o
    | exact hP.beginPinSlot h o
    | exact hP.beginUnpinSlot h o
    | exact hP.beginWithdrawSlot h o
    | exact hP.beginRestoreSlot h o
    | exact hP.beginHandOut h o
    | exact hP.beginCancelHandOut h o
    | exact hP.beginExtendLoan h o
    | exact hP.beginSetClock h o
    | exact hP.beginSetCounter h o
    | exact hP.beginReadCounters h o
    | exact hP.beginSetParameter h o

theorem Closed.runOrders {s : State} (h : P s) (os : List Order) : P (s.runOrders os) := by
  induction os generalizing s with
  | nil => exact hP.board h _
  | cons o os ih =>
    unfold State.runOrders
    split
    · exact hP.board h _
    · exact ih (hP.beginOrder (hP.board h _) o)

theorem Closed.completeOrder {s : State} (h : P s) (e : Execution) (w : Walk) : P (completeOrder e w s) := by
  unfold Machine.completeOrder
  split
  · exact hP.completeEnrolKey h e.order w
  · exact hP.completeRetireKey h e.order w
  · exact hP.completeArm h _ e.order w
  · exact hP.completeArm h _ e.order w
  · exact hP.completeFindKey h e.order w
  · exact hP.completeHandOut h e w
  · exact hP.completeDeclareLost h e.order w
  · exact hP.completeExtendLoan h e.order w
  · exact hP.completeHomeSpan h e.order
  · exact h

theorem Closed.applyWalk {s : State} (h : P s) (w : Walk) : P (s.applyWalk w) := by
  unfold State.applyWalk
  split
  · exact hP.lookupResult h _ _ _
  · split
    · exact h
    · exact hP.runOrders (hP.completeOrder (hP.board h _) _ w) _

theorem Closed.completeWalk {s : State} (h : P s) (w : Walk) : P (s.completeWalk w) :=
  hP.grantNext (hP.walker (hP.applyWalk h w) _) _

theorem Closed.startScan {s : State} (h : P s) : P s.startScan := hP.board h _

theorem Closed.askScan {s : State} (h : P s) : P s.askScan := by
  unfold State.askScan
  repeat' split
  all_goals first | exact h | exact hP.board h _

theorem Closed.takeCell {s : State} (h : P s) (c : CellIx) : P (s.take c) := hP.board (hP.writeCell h c _ _) _

theorem Closed.passCell {s : State} (h : P s) (b : BoardScan) : P (s.passCell b) := by
  unfold State.passCell
  repeat' split
  all_goals exact hP.board h _

theorem Closed.examine {s : State} (h : P s) (b : BoardScan) : P (s.examine b) := by
  unfold State.examine
  refine hP.runOrders (hP.passCell ?_ b) _
  split
  · exact hP.takeCell h _
  · exact h

theorem Closed.takeAndBegin {s : State} (h : P s) (d : Bool) : P (s.takeAndBegin d) := by
  unfold State.takeAndBegin
  repeat' split
  all_goals first | exact h | exact hP.finish (hP.examine h _)

/-! ## Module Line Controller -/

theorem Closed.setRound {s : State} (h : P s) (r : Option Round) : P (s.setRound r) := hP.rest s _ h rfl rfl rfl rfl rfl rfl
theorem Closed.setSurvey {s : State} (h : P s) (v : Option Survey) : P (s.setSurvey v) :=
  hP.rest s _ h rfl rfl rfl rfl rfl rfl
theorem Closed.setTxn {s : State} (h : P s) (t : Option Transaction) : P (s.setTxn t) :=
  hP.rest s _ h rfl rfl rfl rfl rfl rfl
theorem Closed.closeRound {s : State} (h : P s) : P s.closeRound := hP.roundEndNotice (hP.setRound h _)

theorem Closed.startRound {s : State} (h : P s) : P s.startRound := by
  unfold State.startRound
  extract_lets s1 probes src s2 g r
  have h1 : P s1 := foldl_keeps P _ (fun s m h => hP.modModule h m _) _ h
  have h2 : P s2 := hP.mlc h1 _ rfl rfl
  split
  · exact hP.closeRound h2
  · exact hP.setRound h2 _

theorem Closed.endRound {s : State} (h : P s) : P s.endRound := by
  unfold State.endRound
  extract_lets s1
  have h1 : P s1 := hP.closeRound h
  split
  · exact hP.startRound h1
  · exact h1

theorem Closed.roundCheck {s : State} (h : P s) : P s.roundCheck := by
  unfold State.roundCheck
  repeat' split
  all_goals first | exact h | exact hP.endRound h | exact hP.setRound h _ | skip
  all_goals
    extract_lets r
    split
    · exact hP.endRound h
    · exact hP.setRound h _

theorem Closed.checkReady {s : State} (h : P s) : P s.checkReady := by
  unfold State.checkReady
  split
  · split
    · exact hP.askScan (hP.startRound (hP.rest { s with port := { s.port with ready := true, survey := false } } _
        (hP.port s _ (.status true false) h) rfl rfl rfl rfl rfl rfl))
    · exact h
  · split
    · exact hP.askScan (hP.rest { s with port := { s.port with ready := true, survey := s.port.survey } } _
        (hP.port s _ (.status true s.port.survey) h) rfl rfl rfl rfl rfl rfl)
    · exact h
  · exact h

theorem Closed.identificationEnd {s : State} (h : P s) : P s.identificationEnd := by
  unfold State.identificationEnd
  split
  · exact hP.port s _ (.status s.port.ready _) h
  · exact hP.startRound h
  · exact h

theorem Closed.moduleLost {s : State} (h : P s) (m : ModIx) : P (s.moduleLost m) := by
  unfold State.moduleLost
  extract_lets s1 s2 s3 s4
  have h2 : P s2 := hP.tally (hP.offer (hP.modModule h m _) _) _ _ _
  have h3 : P s3 := hP.rest _ _ (hP.purge s2 m h2) rfl rfl rfl rfl rfl rfl
  exact foldl_keeps P _ (fun s k h => hP.lossSlot h k) _ (foldl_keeps P _ (fun s c h => hP.lossCtx h m c) _ h3)

theorem Closed.lampRequests {s : State} (h : P s) (m : ModIx) : P (s.lampRequests m) :=
  foldl_keeps P _ (fun s k h => by
    split
    · exact hP.requestLamp h k
    · exact h) _ h

theorem Closed.rejoinSlot {s : State} (h : P s) (b : Bool) (k : SlotIx) : P (s.rejoinSlot b k) := by
  unfold State.rejoinSlot
  extract_lets s1
  have h1 : P s1 := hP.updateSlot h k _
  split
  · exact hP.modChip h1 k _
  · exact h1

theorem Closed.rereadSlot {s : State} (h : P s) (k : SlotIx) : P (s.rereadSlot k) := by
  unfold State.rereadSlot
  split
  · exact hP.offerRead (hP.setStep (hP.modSlot h k _) k _) k
  · exact h

theorem Closed.moduleOnline {s : State} (h : P s) (m : ModIx) : P (s.moduleOnline m) := by
  unfold State.moduleOnline
  extract_lets e lost s1 s2 s3 s4 s5
  have h1 : P s1 := hP.modModule h m _
  have h2 : P s2 := by
    show P (if lost then s1.offer (.moduleBack m) else s1)
    split
    · exact hP.offer h1 _
    · exact h1
  have h3 : P s3 := foldl_keeps P _ (fun s k h => hP.rejoinSlot h _ k) _ h2
  have h4 : P s4 := by
    show P (if e.surveyed then s3.lampRequests m else s3)
    split
    · exact hP.lampRequests h3 m
    · exact h3
  have h5 : P s5 := by
    show P (if e.surveyed && !lost then (slotsOf m).foldl State.rereadSlot s4 else s4)
    split
    · exact foldl_keeps P _ (fun s k h => hP.rereadSlot h k) _ h4
    · exact h4
  exact hP.grantWaiting h5 m

theorem Closed.probeReply {s : State} (h : P s) (m : ModIx) (b : Byte) : P (s.probeReply m b) := by
  unfold State.probeReply
  split
  · exact hP.moduleOnline h m
  · exact hP.modModule h m _

theorem Closed.probeFailed {s : State} (h : P s) (m : ModIx) : P (s.probeFailed m) := by
  unfold State.probeFailed
  split
  · exact hP.moduleLost h m
  · exact h

theorem Closed.probeEnd {s : State} (h : P s) (m : ModIx) : P (s.probeEnd m) := by
  unfold State.probeEnd
  refine hP.checkReady ?_
  split
  · extract_lets src s1
    have h1 : P s1 := hP.mlc h _ rfl rfl
    split
    · exact hP.identificationEnd h1
    · exact h1
  · exact hP.roundCheck (hP.mlc h _ rfl rfl)

theorem Closed.seedPosition {s : State} (h : P s) (v : Survey) (p : PosIx) : P (s.seedPosition v p) := by
  unfold State.seedPosition
  extract_lets k c result s1
  split
  · exact hP.modSlot h k _
  · have h1 : P s1 := hP.seedSlot h k c result
    split
    · exact hP.becomeStranger (hP.modSlot h1 k _) k _ _ _
    · exact hP.emptySlot h1 k

theorem Closed.seed {s : State} (h : P s) (v : Survey) : P (s.seed v) := by
  unfold State.seed
  extract_lets s1 s2
  have h1 : P s1 := foldl_keeps P _ (fun s p h => hP.seedPosition h v p) _ h
  have h2 : P s2 := hP.modModule h1 _ _
  clear_value s2
  exact hP.checkReady (hP.lampRequests (hP.setSurvey h2 _) _)

theorem Closed.trySeed {s : State} (h : P s) : P s.trySeed := by
  unfold State.trySeed
  split
  · exact h
  · split
    · exact hP.seed h _
    · exact h

theorem Closed.surveyCounts {s : State} (h : P s) (v : Survey) (d : List Byte) : P (s.surveyCounts v d) := by
  unfold State.surveyCounts
  refine hP.trySeed ?_
  split
  · split
    · exact hP.setSurvey h _
    · exact hP.surveyStale h v
  · exact hP.surveyStale h v

theorem Closed.roundCounts {s : State} (h : P s) (m : ModIx) (d : List Byte) : P (s.roundCounts m d) := by
  unfold State.roundCounts
  repeat' split
  all_goals first | exact hP.handCounts h m _ _ | exact hP.tally h _ _ _

theorem Closed.readDone {s : State} (h : P s) (m : ModIx) : P (s.readDone m) := by
  unfold State.readDone
  exact hP.roundCheck (hP.mlc h _ rfl rfl)

theorem Closed.beginAttempt {s : State} (h : P s) (w : Work) (f : List Byte) (n : Nat) : P (s.beginAttempt w f n) :=
  hP.rest s _ h rfl rfl rfl rfl rfl rfl

theorem Closed.beginTxn {s : State} (h : P s) (w : Work) : P (s.beginTxn w) := hP.beginAttempt h w _ _

theorem Closed.beginMeasure {s : State} (h : P s) (j m : Nat) (w : Work) : P (s.beginMeasure j m w) := by
  unfold State.beginMeasure
  extract_lets seq src s1 s2
  have h1 : P s1 := hP.mlc h _ rfl rfl
  refine hP.beginTxn (?_ : P s2) w
  refine foldl_keeps P _ (fun s x h => ?_) _ h1
  split
  · exact hP.modModule h x _
  · exact h

theorem Closed.beginProbe {s : State} (h : P s) (m : ModIx) : P (s.beginProbe m) := hP.beginTxn (hP.modModule h m _) _

theorem Closed.surveyStep {s t : State} (h : P s) (v : Survey) (e : s.surveyStep v = some t) : P t := by
  unfold State.surveyStep at e
  extract_lets w at e
  split at e
  · cases e; exact hP.beginMeasure (hP.setSurvey h _) _ _ _
  · cases e; exact hP.beginTxn (hP.setSurvey h _) _
  · split at e
    · cases e; exact hP.beginTxn (hP.setSurvey h _) _
    · exact Option.some.inj e ▸ hP.seed h v
  · cases e

theorem Closed.roundStep {s : State} (h : P s) : P s.roundStep := by
  unfold State.roundStep
  repeat' split
  all_goals first
    | exact h | exact hP.beginMeasure (hP.setRound h _) _ _ _ | exact hP.beginTxn h _ | exact hP.beginProbe h _

theorem Closed.startWork {s : State} (h : P s) : P s.startWork := by
  unfold State.startWork
  split
  · exact hP.beginProbe h _
  · split
    · next e => exact hP.beginTxn (hP.take s _ _ e h) _
    · split
      · next e =>
        obtain ⟨v, _, e⟩ := Option.bind_eq_some_iff.mp e
        exact hP.surveyStep h v e
      · exact hP.roundStep h

theorem Closed.lostBy {s : State} (h : P s) (w : Work) (m : ModIx) : P (s.lostBy w m) := by
  unfold State.lostBy
  split
  · exact hP.updateSlot (hP.moduleLost h m) _ _
  · exact hP.moduleLost h m

theorem Closed.txnFailed {s : State} (h : P s) (w : Work) : P (s.txnFailed w) := by
  unfold State.txnFailed
  split
  · exact hP.probeEnd (hP.probeFailed h _) _
  · split
    · exact hP.checkReady (hP.roundCheck (hP.lostBy h _ _))
    · exact h

theorem Closed.attemptFailed {s : State} (h : P s) (t : Transaction) : P (s.attemptFailed t) := by
  unfold State.attemptFailed
  extract_lets once
  split
  · exact hP.txnFailed (hP.setTxn h _) _
  · exact hP.setTxn h _

theorem Closed.surveyFobRead {s : State} (h : P s) (p : PosIx) (f : Option Word) : P (s.surveyFobRead p f) := by
  unfold State.surveyFobRead
  split
  · exact h
  · exact hP.trySeed (hP.setSurvey h _)

theorem Closed.handOver {s : State} (h : P s) (w : Work) (d : List Byte) : P (s.handOver w d) := by
  unfold State.handOver
  split
  · exact hP.latchReplied h _ _ _
  · exact hP.fobRead h _ _
  · exact h
  · exact hP.readDone (hP.roundCounts h _ d) _
  · exact hP.probeEnd (hP.probeReply h _ _) _
  · split
    · exact hP.surveyCounts h _ d
    · exact h
  · exact hP.surveyFobRead h _ _
  · exact h
  · exact h

theorem Closed.receive {s : State} (h : P s) (cs : List RxChar) : P (s.receive cs) := by
  unfold State.receive
  split
  · exact h
  · split
    · exact h
    · split
      · exact h
      · extract_lets rx
        split
        · exact hP.setTxn h _
        · exact hP.finish (hP.attemptFailed h _)
        · exact hP.finish (hP.handOver (hP.setTxn h _) _ _)

/-! ## Start-up and port -/

theorem Closed.softReset {s : State} (h : P s) : P s.softReset := by
  unfold State.softReset
  extract_lets s1 s2 s3 s4 s5
  have h1 : P s1 := hP.rest _ _ (hP.emptied s s.mlc.softReset rfl rfl h) rfl rfl rfl rfl rfl rfl
  have h3 : P s3 := hP.release (foldl_keeps P _ (fun s c h => hP.resetCtx h c) _ h1) _
  have h4 : P s4 := foldl_keeps P _ (fun s c h => by
    split
    · exact hP.writeResult h c _
    · exact h) _ h3
  have h5 : P s5 := hP.rest _ _ (hP.port s4 _ .softReset h4) rfl rfl rfl rfl rfl rfl
  have h6 : P s5.clearHistories := foldl_keeps P _ (fun s k h => hP.modSlot h k _) _ h5
  unfold State.resetPoster
  extract_lets src s7
  have h7 : P s7 := hP.poster h6 _
  split
  · exact hP.startAlertScan h7
  · exact h7

theorem Closed.clearWord {s : State} (h : P s) (w : Nat) : P (s.clearWord w) := by
  unfold State.clearWord
  extract_lets s1
  have h1 : P s1 := hP.write s _ _ h
  split
  · exact hP.rest s1 _ h1 rfl rfl rfl rfl rfl rfl
  · exact hP.rest s1 _ h1 rfl rfl rfl rfl rfl rfl

theorem Closed.powerOn {s : State} (h : P s) : P { State.reset with pending := s.pending, store := s.store } :=
  hP.rest _ _ (hP.paramsReset _ (hP.emptied { s with port := Port.reset } Mlc.reset rfl rfl (hP.port s _ .reset h)))
    rfl rfl rfl rfl rfl rfl

theorem Closed.rebuildRecord {s : State} (h : P s) (i : RecIx) : P (s.rebuildRecord i) := by
  unfold State.rebuildRecord
  extract_lets r l
  split
  · exact hP.rest s _ h rfl rfl rfl rfl rfl rfl
  · exact h

theorem Closed.rebuildEnd {s : State} (h : P s) : P s.rebuildEnd := hP.checkReady (hP.rest s _ h rfl rfl rfl rfl rfl rfl)

theorem Closed.writeLanes {s : State} (h : P s) (a : Nat) (d : Half) (x y : Bool) : P (s.writeLanes a d x y) := by
  unfold State.writeLanes
  extract_lets l u
  split
  all_goals first | exact h | exact hP.write s _ _ h

theorem Closed.hostCell {s : State} (h : P s) (c : CellIx) (n : Nat) (d : Half) (x y : Bool) : P (s.hostCell c n d x y) := by
  unfold State.hostCell
  extract_lets st s1
  split
  · have h1 : P s1 := hP.writeLanes h _ d x y
    split
    · exact hP.port s1 _ (.clearDone c) h1
    · exact h1
  · exact hP.refuseWrite h

theorem Closed.hostShelf {s : State} (h : P s) (e : EntryIx) (n : Nat) (d : Half) (x y : Bool) :
    P (s.hostShelf e n d x y) := by
  unfold State.hostShelf
  split
  · unfold State.freeShelf
    extract_lets s1
    have h1 : P s1 := hP.evalAlert (hP.write s _ _ h)
    split
    · exact hP.startAlertScan h1
    · exact h1
  · exact hP.refuseWrite h

theorem Closed.hostWrite {s : State} (h : P s) (a : BitVec 15) (d : Half) (x y : Bool) : P (s.hostWrite a d x y) := by
  unfold State.hostWrite
  extract_lets n
  split
  · exact h
  · split
    · exact hP.refuseWrite h
    · split
      · exact hP.hostCell h _ _ d x y
      · split
        · exact hP.hostShelf h _ _ d x y
        · exact hP.refuseWrite h

theorem Closed.registerWrite {s : State} (h : P s) (w : Nat) (d : Half) : P (s.registerWrite w d) := by
  unfold State.registerWrite
  split
  · exact h
  · split
    · exact hP.port s _ (.clearSticky d) h
    · exact hP.askScan h
    · unfold State.portControl
      extract_lets s1
      have h1 : P s1 := hP.port s _ (.takeEnables d) h
      split
      · split
        · exact h1
        · exact hP.softReset h1
      · exact h1
    · exact h

/-! ## Commands -/

/-- Every command keeps a property that the primitive changes keep, and answers a next state. -/
theorem exec_keeps (i : Instr) {s : State} (h : P s) : ∃ t, exec i s = .next t ∧ P t := by
  cases i
  case powerOnReset => exact ⟨_, rfl, hP.powerOn h⟩
  case resetEnd =>
    simp only [exec, execResetEnd]; split
    · exact ⟨_, rfl, hP.rest s _ h rfl rfl rfl rfl rfl rfl⟩
    · exact ⟨_, rfl, h⟩
  case storeClearingWord =>
    simp only [exec, execStoreClearingWord]; split
    · exact ⟨_, rfl, hP.clearWord h _⟩
    · exact ⟨_, rfl, h⟩
  case hostStoreRead a =>
    simp only [exec, execHostStoreRead]; split
    · exact ⟨_, rfl, hP.port s _ (.data _) h⟩
    · exact ⟨_, rfl, h⟩
  case hostCellWrite a d x y => exact ⟨_, rfl, hP.hostWrite h a d x y⟩
  case hostShelfWrite a d x y => exact ⟨_, rfl, hP.hostWrite h a d x y⟩
  case hostGuardedAreaWrite a d x y => exact ⟨_, rfl, hP.hostWrite h a d x y⟩
  case portStatusClear d => exact ⟨_, rfl, hP.registerWrite h _ d⟩
  case attention d => exact ⟨_, rfl, hP.registerWrite h _ d⟩
  case setInterruptEnables d => exact ⟨_, rfl, hP.registerWrite h _ d⟩
  case softReset d => exact ⟨_, rfl, hP.registerWrite h _ d⟩
  case registerWriteIgnored w d => exact ⟨_, rfl, hP.registerWrite h _ d⟩
  case scanTimerExpiry => exact ⟨_, rfl, hP.askScan h⟩
  case scanExamination =>
    simp only [exec, execScanExamination]; split
    · exact ⟨_, rfl, h⟩
    · exact ⟨_, rfl, hP.finish (hP.examine h _)⟩
  case badKind c => exact ⟨_, rfl, hP.takeAndBegin h _⟩
  case enrolKey c => exact ⟨_, rfl, hP.takeAndBegin h _⟩
  case retireKey c => exact ⟨_, rfl, hP.takeAndBegin h _⟩
  case armKey c => exact ⟨_, rfl, hP.takeAndBegin h _⟩
  case disarmKey c => exact ⟨_, rfl, hP.takeAndBegin h _⟩
  case findKey c => exact ⟨_, rfl, hP.takeAndBegin h _⟩
  case pinSlot c => exact ⟨_, rfl, hP.takeAndBegin h _⟩
  case unpinSlot c => exact ⟨_, rfl, hP.takeAndBegin h _⟩
  case withdrawSlot c => exact ⟨_, rfl, hP.takeAndBegin h _⟩
  case restoreSlot c => exact ⟨_, rfl, hP.takeAndBegin h _⟩
  case handOut c => exact ⟨_, rfl, hP.takeAndBegin h _⟩
  case cancelHandOut c => exact ⟨_, rfl, hP.takeAndBegin h _⟩
  case declareLost c => exact ⟨_, rfl, hP.takeAndBegin h _⟩
  case extendLoan c => exact ⟨_, rfl, hP.takeAndBegin h _⟩
  case setClock c => exact ⟨_, rfl, hP.takeAndBegin h _⟩
  case setCounter c => exact ⟨_, rfl, hP.takeAndBegin h _⟩
  case readCounters c => exact ⟨_, rfl, hP.takeAndBegin h _⟩
  case setParameter c => exact ⟨_, rfl, hP.takeAndBegin h _⟩
  case walkStep =>
    simp only [exec, execWalkStep]; repeat' split
    all_goals first | with_reducible exact ⟨_, rfl, h⟩ | exact ⟨_, rfl, hP.stepWalk h _ _⟩
  case walkCompletion =>
    simp only [exec, execWalkCompletion]; repeat' split
    all_goals first | with_reducible exact ⟨_, rfl, h⟩ | exact ⟨_, rfl, hP.finish (hP.completeWalk h _)⟩
  case lineWorkStart =>
    simp only [exec, execLineWorkStart]; split
    · exact ⟨_, rfl, h⟩
    · exact ⟨_, rfl, hP.finish (hP.startWork h)⟩
  case requestFrameSent =>
    simp only [exec, execRequestFrameSent]; repeat' split
    all_goals first | with_reducible exact ⟨_, rfl, h⟩ | exact ⟨_, rfl, hP.rest s _ h rfl rfl rfl rfl rfl rfl⟩
  case waitTimerExpiry t =>
    simp only [exec, execWaitTimerExpiry]; repeat' split
    all_goals first
      | with_reducible exact ⟨_, rfl, h⟩ | with_reducible exact ⟨_, rfl, hP.finish (hP.roundCheck (hP.setRound h _))⟩ | exact ⟨_, rfl, hP.setSurvey h _⟩
  case replyTimerExpiry =>
    simp only [exec, execReplyTimerExpiry]; repeat' split
    all_goals first | with_reducible exact ⟨_, rfl, h⟩ | exact ⟨_, rfl, hP.finish (hP.attemptFailed h _)⟩
  case countsReply cs => exact ⟨_, rfl, hP.receive h cs⟩
  case fobReply cs => exact ⟨_, rfl, hP.receive h cs⟩
  case latchReply cs => exact ⟨_, rfl, hP.receive h cs⟩
  case lampReply cs => exact ⟨_, rfl, hP.receive h cs⟩
  case identifyReply cs => exact ⟨_, rfl, hP.receive h cs⟩
  case replyFailedAttempt cs => exact ⟨_, rfl, hP.receive h cs⟩
  case roundTimerExpiry =>
    simp only [exec, execRoundTimerExpiry]; split
    · split
      · exact ⟨_, rfl, hP.rest s _ h rfl rfl rfl rfl rfl rfl⟩
      · exact ⟨_, rfl, hP.finish (hP.startRound h)⟩
    · exact ⟨_, rfl, h⟩
  case probeDue m =>
    simp only [exec, execProbeDue]; split
    · exact ⟨_, rfl, hP.finish (hP.startRound h)⟩
    · exact ⟨_, rfl, h⟩
  case removalTimerExpiry c =>
    simp only [exec, execRemovalTimerExpiry]; repeat' split
    all_goals first | with_reducible exact ⟨_, rfl, h⟩ | exact ⟨_, rfl, hP.finish (hP.beginRelatch h c _)⟩
  case settleEnd c =>
    simp only [exec, execSettleEnd]; repeat' split
    all_goals first | with_reducible exact ⟨_, rfl, h⟩ | exact ⟨_, rfl, hP.finish (hP.endSettle h c _)⟩
  case jamReissue =>
    simp only [exec, execJamReissue]; split
    · exact ⟨_, rfl, hP.finish (hP.roundEndNotice h)⟩
    · exact ⟨_, rfl, h⟩
  case secondTick =>
    simp only [exec, execSecondTick]; split
    · exact ⟨_, rfl, hP.rest s _ h rfl rfl rfl rfl rfl rfl⟩
    · exact ⟨_, rfl, hP.minuteEvent h⟩
  case minuteEvent =>
    simp only [exec, execMinuteEvent]; split
    · exact ⟨_, rfl, hP.minuteEvent h⟩
    · exact ⟨_, rfl, h⟩
  case passVisit =>
    simp only [exec, execPassVisit]; split
    · exact ⟨_, rfl, hP.finish (hP.passStep h _)⟩
    · exact ⟨_, rfl, h⟩
  case rebuildStep =>
    simp only [exec, execRebuildStep]; split
    · exact ⟨_, rfl, h⟩
    · split
      · split
        · exact ⟨_, rfl, hP.finish (hP.rebuildEnd (hP.rebuildRecord h _))⟩
        · exact ⟨_, rfl, hP.rest _ _ (hP.rebuildRecord h _) rfl rfl rfl rfl rfl rfl⟩
      · exact ⟨_, rfl, h⟩
  case deferredScanStep =>
    simp only [exec, execDeferredScanStep]; split
    · exact ⟨_, rfl, hP.finish (hP.postOwed h _ _)⟩
    · exact ⟨_, rfl, h⟩
  case retryAttemptStart =>
    simp only [exec, execRetryAttemptStart]; repeat' split
    all_goals first | with_reducible exact ⟨_, rfl, h⟩ | exact ⟨_, rfl, hP.beginAttempt (hP.tally h _ _ _) _ _ _⟩

end

end Sys2Proof.Machine
end

