-- ==== Sys2Proof/Laws/Slots.lean ====
section
/-! SUPPORT. What the Slot Supervisor's and Release Unit's shared operations can do: requests to the line, changes of a slot
record, latch requests. -/

namespace Sys2Proof.Machine

/-! ## Tables -/

@[simp] theorem setAt_get {α : Type} {n : Nat} (v : Vector α n) (i : Fin n) (x : α) : (setAt v i x)[i.val] = x := by
  unfold setAt; simp

theorem setAt_get_ne {α : Type} {n : Nat} (v : Vector α n) (i j : Fin n) (x : α) (h : j ≠ i) :
    (setAt v i x)[j.val] = v[j.val] := by
  unfold setAt
  have : i.val ≠ j.val := fun e => h (Fin.ext e.symm)
  simp [this]

theorem State.chip_modChip_ne (s : State) {j k : SlotIx} (h : j ≠ k) (f : Chip → Chip) :
    (s.modChip k f).chip j = s.chip j := setAt_get_ne _ _ _ _ h

theorem State.modEntry_modModule_ne (s : State) {j m : ModIx} (h : j ≠ m) (f : ModEntry → ModEntry) :
    (s.modModule m f).modEntry j = s.modEntry j := setAt_get_ne _ _ _ _ h

theorem State.ctx_setCtx_ne (s : State) {j c : CtxIx} (h : j ≠ c) (x : Option Context) :
    (s.setCtx c x).ctx j = s.ctx j := setAt_get_ne _ _ _ _ h

/-! ## Requests to the line -/

/-- A request offered to the MLC changes the queue, the pending list and the counters alone. -/
theorem State.offerLine_eq (s : State) (r : LineRequest) :
    s.offerLine r = { s with
      mlc := { s.mlc with queue := (s.offerLine r).mlc.queue, waiting := (s.offerLine r).mlc.waiting }
      counters := (s.offerLine r).counters } := by
  unfold State.offerLine; dsimp only
  split
  · rfl
  · split <;> rfl

/-- A LAMP request changes the queue, the pending list and the counters alone. -/
theorem State.requestLamp_eq (s : State) (k : SlotIx) :
    s.requestLamp k = { s with
      mlc := { s.mlc with queue := (s.requestLamp k).mlc.queue, waiting := (s.requestLamp k).mlc.waiting }
      counters := (s.requestLamp k).counters } := by
  unfold State.requestLamp
  split
  · rfl
  · exact State.offerLine_eq s _

/-- A request offered with room in the queue of an ONLINE module joins its tail. -/
theorem State.offerLine_room (s : State) (r : LineRequest) (hm : s.online (moduleOf r.slot) = true)
    (hq : s.mlc.queue.length < 32) :
    s.offerLine r = { s with mlc := { s.mlc with queue := s.mlc.queue ++ [r] } } := by
  unfold State.offerLine; dsimp only
  rw [hm]; simp only [Bool.not_true, Bool.false_eq_true, if_false]
  rw [if_pos (show s.mlc.queue.length < Config.lineQueueSize from hq)]

/-- A request to a module that is not ONLINE is dropped. -/
theorem State.offerLine_offline (s : State) (r : LineRequest) (hm : s.online (moduleOf r.slot) = false) :
    s.offerLine r = s := by
  unfold State.offerLine; dsimp only; rw [hm]; rfl

/-! ## Changes of a slot record -/

/-- The lamp an updated slot record takes. -/
def newLamp (old new : SlotRec) : Lamp :=
  if old.state ≠ new.state ∨ old.latch ≠ new.latch then lampFor new.state new.latch else old.lamp

/-- What an update of a slot record does before its LAMP request. -/
def State.updated (s : State) (k : SlotIx) (f : SlotRec → SlotRec) : State :=
  let t := (s.setSlot k { f (s.slot k) with lamp := newLamp (s.slot k) (f (s.slot k)) }).countSlots (s.slot k).state
    (f (s.slot k)).state
  if (s.slot k).state ≠ (f (s.slot k)).state then t.modChip k (fun c => { c with step := .none }) else t

theorem State.updateSlot_split (s : State) (k : SlotIx) (f : SlotRec → SlotRec) :
    s.updateSlot k f =
      if newLamp (s.slot k) (f (s.slot k)) ≠ (s.slot k).lamp then (s.updated k f).requestLamp k else s.updated k f := rfl

theorem State.updated_store (s : State) (k : SlotIx) (f : SlotRec → SlotRec) :
    (s.updated k f).store = (s.setSlot k { f (s.slot k) with lamp := newLamp (s.slot k) (f (s.slot k)) }).store := by
  unfold State.updated; dsimp only; split <;> rfl

/-- An update of a slot record with the lamp left as it is makes no request. -/
theorem State.updateSlot_sameLamp (s : State) (k : SlotIx) (f : SlotRec → SlotRec)
    (h : newLamp (s.slot k) (f (s.slot k)) = (s.slot k).lamp) : s.updateSlot k f = s.updated k f := by
  rw [State.updateSlot_split, if_neg (by simp [h])]

/-- An update of a slot record changes the store, the slot's chip, the counts, and by its LAMP request the line's lists
and the counters. -/
theorem State.updateSlot_eq (s : State) (k : SlotIx) (f : SlotRec → SlotRec) :
    s.updateSlot k f = { s with
      store := (s.updateSlot k f).store
      chips := (s.updateSlot k f).chips
      heldSlots := (s.updateSlot k f).heldSlots
      emptySlots := (s.updateSlot k f).emptySlots
      mlc := { s.mlc with queue := (s.updateSlot k f).mlc.queue, waiting := (s.updateSlot k f).mlc.waiting }
      counters := (s.updateSlot k f).counters } := by
  have hu : s.updated k f = { s with store := (s.updated k f).store, chips := (s.updated k f).chips,
                                     heldSlots := (s.updated k f).heldSlots, emptySlots := (s.updated k f).emptySlots } := by
    unfold State.updated; dsimp only; split <;> rfl
  rw [State.updateSlot_split]
  split
  · rw [State.requestLamp_eq]
    generalize (s.updated k f).requestLamp k = t
    rw [hu]
  · rw [hu]

theorem State.updateSlot_store (s : State) (k : SlotIx) (f : SlotRec → SlotRec) :
    (s.updateSlot k f).store = (s.setSlot k { f (s.slot k) with lamp := newLamp (s.slot k) (f (s.slot k)) }).store := by
  rw [State.updateSlot_split, ← State.updated_store]
  split
  · rw [State.requestLamp_eq]
  · rfl

/-- Two states with one store hold the same bytes. -/
theorem State.byte_of_store {s t : State} (h : t.store = s.store) (x : Nat) : t.byte x = s.byte x := by
  unfold State.byte; rw [h]

theorem State.slot_of_store {s t : State} (h : t.store = s.store) (k : SlotIx) : t.slot k = s.slot k :=
  State.slot_congr k fun _ _ => State.byte_of_store h _

theorem State.key_of_store {s t : State} (h : t.store = s.store) (i : RecIx) : t.key i = s.key i :=
  State.key_congr i fun _ _ => State.byte_of_store h _

/-- An updated slot record, with the lamp the policy gives it. -/
@[simp] theorem State.slot_updateSlot (s : State) (k : SlotIx) (f : SlotRec → SlotRec) :
    (s.updateSlot k f).slot k = { f (s.slot k) with lamp := newLamp (s.slot k) (f (s.slot k)) } := by
  rw [State.slot_of_store (State.updateSlot_store s k f), State.slot_setSlot]

theorem State.slot_updateSlot_ne (s : State) {j k : SlotIx} (h : j ≠ k) (f : SlotRec → SlotRec) :
    (s.updateSlot k f).slot j = s.slot j := by
  rw [State.slot_of_store (State.updateSlot_store s k f), State.slot_setSlot_ne _ h]

@[simp] theorem State.key_updateSlot (s : State) (k : SlotIx) (f : SlotRec → SlotRec) (i : RecIx) :
    (s.updateSlot k f).key i = s.key i := by
  rw [State.key_of_store (State.updateSlot_store s k f), State.key_setSlot]

theorem State.byte_updateSlot (s : State) (k : SlotIx) (f : SlotRec → SlotRec) (x : Nat) (h : ¬ inBlock (slotBase k) 24 x) :
    (s.updateSlot k f).byte x = s.byte x := by
  rw [State.byte_of_store (State.updateSlot_store s k f), State.byte_setSlot _ _ _ _ h]

theorem State.updateSlot_chips (s : State) (k : SlotIx) (f : SlotRec → SlotRec) :
    (s.updateSlot k f).chips =
      if (s.slot k).state ≠ (f (s.slot k)).state then (s.modChip k (fun c => { c with step := .none })).chips else s.chips := by
  have : (s.updateSlot k f).chips = (s.updated k f).chips := by
    rw [State.updateSlot_split]; split
    · rw [State.requestLamp_eq]
    · rfl
  rw [this]; unfold State.updated; dsimp only; split <;> rfl

/-- A change of state sets the slot's step to NONE and leaves the rest of its chip. -/
theorem State.chip_updateSlot (s : State) (k : SlotIx) (f : SlotRec → SlotRec) (j : SlotIx) :
    (s.updateSlot k f).chip j =
      if j = k ∧ (s.slot k).state ≠ (f (s.slot k)).state then { s.chip j with step := .none } else s.chip j := by
  have e : (s.updateSlot k f).chip j = (s.updateSlot k f).chips[j.val] := rfl
  rw [e]; simp only [State.updateSlot_chips]
  by_cases h : (s.slot k).state ≠ (f (s.slot k)).state
  · simp only [h, if_true, and_true, ne_eq, not_false_eq_true]
    by_cases hj : j = k
    · subst hj; rw [if_pos rfl]; exact State.chip_modChip s j _
    · rw [if_neg hj]; exact State.chip_modChip_ne s hj _
  · have h' : ¬ (j = k ∧ (s.slot k).state ≠ (f (s.slot k)).state) := fun x => h x.2
    rw [if_neg h']
    simp only [h, if_false]; rfl

theorem State.updateSlot_emptySlots (s : State) (k : SlotIx) (f : SlotRec → SlotRec) :
    (s.updateSlot k f).emptySlots =
      s.emptySlots + (if (f (s.slot k)).state = .empty then 1 else 0) - (if (s.slot k).state = .empty then 1 else 0) := by
  have : (s.updateSlot k f).emptySlots = (s.updated k f).emptySlots := by
    rw [State.updateSlot_split]; split
    · rw [State.requestLamp_eq]
    · rfl
  rw [this]; unfold State.updated; dsimp only; split <;> rfl

theorem State.updateSlot_heldSlots (s : State) (k : SlotIx) (f : SlotRec → SlotRec) :
    (s.updateSlot k f).heldSlots =
      s.heldSlots + (if (f (s.slot k)).state = .held then 1 else 0) - (if (s.slot k).state = .held then 1 else 0) := by
  have : (s.updateSlot k f).heldSlots = (s.updated k f).heldSlots := by
    rw [State.updateSlot_split]; split
    · rw [State.requestLamp_eq]
    · rfl
  rw [this]; unfold State.updated; dsimp only; split <;> rfl

@[simp] theorem State.updateSlot_pending (s : State) (k : SlotIx) (f : SlotRec → SlotRec) :
    (s.updateSlot k f).pending = s.pending := by rw [State.updateSlot_eq]
@[simp] theorem State.updateSlot_phase (s : State) (k : SlotIx) (f : SlotRec → SlotRec) :
    (s.updateSlot k f).phase = s.phase := by rw [State.updateSlot_eq]
@[simp] theorem State.updateSlot_port (s : State) (k : SlotIx) (f : SlotRec → SlotRec) :
    (s.updateSlot k f).port = s.port := by rw [State.updateSlot_eq]
@[simp] theorem State.updateSlot_board (s : State) (k : SlotIx) (f : SlotRec → SlotRec) :
    (s.updateSlot k f).board = s.board := by rw [State.updateSlot_eq]
@[simp] theorem State.updateSlot_walker (s : State) (k : SlotIx) (f : SlotRec → SlotRec) :
    (s.updateSlot k f).walker = s.walker := by rw [State.updateSlot_eq]
@[simp] theorem State.updateSlot_release (s : State) (k : SlotIx) (f : SlotRec → SlotRec) :
    (s.updateSlot k f).release = s.release := by rw [State.updateSlot_eq]
@[simp] theorem State.updateSlot_loans (s : State) (k : SlotIx) (f : SlotRec → SlotRec) :
    (s.updateSlot k f).loans = s.loans := by rw [State.updateSlot_eq]
@[simp] theorem State.updateSlot_poster (s : State) (k : SlotIx) (f : SlotRec → SlotRec) :
    (s.updateSlot k f).poster = s.poster := by rw [State.updateSlot_eq]
@[simp] theorem State.updateSlot_params (s : State) (k : SlotIx) (f : SlotRec → SlotRec) :
    (s.updateSlot k f).params = s.params := by rw [State.updateSlot_eq]

@[simp] theorem State.updateSlot_modules (s : State) (k : SlotIx) (f : SlotRec → SlotRec) :
    (s.updateSlot k f).mlc.modules = s.mlc.modules := by rw [State.updateSlot_eq]

@[simp] theorem State.online_updateSlot (s : State) (k : SlotIx) (f : SlotRec → SlotRec) (m : ModIx) :
    (s.updateSlot k f).online m = s.online m := by
  unfold State.online State.modEntry; simp only [State.updateSlot_modules]

/-! ## Latch requests, contexts and results -/

/-- A latch request changes the store, the chips, the counts, the line's lists and the counters alone. -/
theorem State.askLatch_eq (s : State) (k : SlotIx) (a : Action) :
    s.askLatch k a = { s with
      store := (s.askLatch k a).store
      chips := (s.askLatch k a).chips
      heldSlots := (s.askLatch k a).heldSlots
      emptySlots := (s.askLatch k a).emptySlots
      mlc := { s.mlc with queue := (s.askLatch k a).mlc.queue, waiting := (s.askLatch k a).mlc.waiting }
      counters := (s.askLatch k a).counters } := by
  unfold State.askLatch
  split
  · rfl
  · split
    · rfl
    · dsimp only
      rw [State.updateSlot_eq]
      generalize State.updateSlot _ _ _ = t
      rw [State.offerLine_eq]; rfl

/-- A latch request for a slot of an ONLINE module with none outstanding: the request is offered, noted as outstanding,
and the latch field written. -/
theorem State.askLatch_free (s : State) (k : SlotIx) (a : Action) (hm : s.online (moduleOf k) = true)
    (ho : (s.chip k).latchOut = none) :
    s.askLatch k a = ((s.offerLine (.latch k a)).modChip k (fun c => { c with latchOut := some a })).updateSlot k
      (fun r => { r with latch := a.field }) := by
  simp only [State.askLatch, hm, ho, Bool.not_true, Bool.false_eq_true, if_false]

@[simp] theorem State.askLatch_board (s : State) (k : SlotIx) (a : Action) : (s.askLatch k a).board = s.board := by
  rw [State.askLatch_eq]
@[simp] theorem State.askLatch_poster (s : State) (k : SlotIx) (a : Action) : (s.askLatch k a).poster = s.poster := by
  rw [State.askLatch_eq]
@[simp] theorem State.askLatch_release (s : State) (k : SlotIx) (a : Action) : (s.askLatch k a).release = s.release := by
  rw [State.askLatch_eq]
@[simp] theorem State.askLatch_port (s : State) (k : SlotIx) (a : Action) : (s.askLatch k a).port = s.port := by
  rw [State.askLatch_eq]
@[simp] theorem State.askLatch_loans (s : State) (k : SlotIx) (a : Action) : (s.askLatch k a).loans = s.loans := by
  rw [State.askLatch_eq]
@[simp] theorem State.askLatch_params (s : State) (k : SlotIx) (a : Action) : (s.askLatch k a).params = s.params := by
  rw [State.askLatch_eq]

/-- The end of a context changes the Release Unit's state alone. -/
theorem State.endCtx_eq (s : State) (c : CtxIx) : s.endCtx c = { s with release := (s.endCtx c).release } := by
  unfold State.endCtx; split <;> rfl

@[simp] theorem State.endCtx_board (s : State) (c : CtxIx) : (s.endCtx c).board = s.board := by rw [State.endCtx_eq]
@[simp] theorem State.endCtx_poster (s : State) (c : CtxIx) : (s.endCtx c).poster = s.poster := by rw [State.endCtx_eq]
@[simp] theorem State.endCtx_port (s : State) (c : CtxIx) : (s.endCtx c).port = s.port := by rw [State.endCtx_eq]
@[simp] theorem State.endCtx_store (s : State) (c : CtxIx) : (s.endCtx c).store = s.store := by rw [State.endCtx_eq]
@[simp] theorem State.endCtx_loans (s : State) (c : CtxIx) : (s.endCtx c).loans = s.loans := by rw [State.endCtx_eq]

/-- A context that has ended is free. -/
@[simp] theorem State.ctx_endCtx (s : State) (c : CtxIx) : (s.endCtx c).ctx c = none := by
  unfold State.endCtx
  split
  · assumption
  · exact setAt_get _ _ _

/-- The end of a context leaves every other. -/
theorem State.ctx_endCtx_ne (s : State) {j c : CtxIx} (h : j ≠ c) : (s.endCtx c).ctx j = s.ctx j := by
  unfold State.endCtx
  split
  · rfl
  · rename_i x hx
    have e : ∀ r : Release, r.contexts = s.release.contexts → (setAt r.contexts c none)[j.val] = s.ctx j := by
      intro r hr; rw [setAt_get_ne _ _ _ _ h, State.ctx]; simp only [hr]
    apply e
    split <;> rfl

/-- An outcome changes the store and the port alone. -/
theorem State.writeOutcome_eq (s : State) (c : CtxIx) (x : Context) (code : Code) :
    s.writeOutcome c x code = { s with store := (s.writeOutcome c x code).store, port := (s.writeOutcome c x code).port } := by
  unfold State.writeOutcome
  split
  · rfl
  · rw [State.writeResult_eq]

@[simp] theorem State.writeOutcome_board (s : State) (c : CtxIx) (x : Context) (code : Code) :
    (s.writeOutcome c x code).board = s.board := by rw [State.writeOutcome_eq]
@[simp] theorem State.writeOutcome_poster (s : State) (c : CtxIx) (x : Context) (code : Code) :
    (s.writeOutcome c x code).poster = s.poster := by rw [State.writeOutcome_eq]
@[simp] theorem State.writeOutcome_release (s : State) (c : CtxIx) (x : Context) (code : Code) :
    (s.writeOutcome c x code).release = s.release := by rw [State.writeOutcome_eq]
@[simp] theorem State.writeOutcome_loans (s : State) (c : CtxIx) (x : Context) (code : Code) :
    (s.writeOutcome c x code).loans = s.loans := by rw [State.writeOutcome_eq]
@[simp] theorem State.writeOutcome_params (s : State) (c : CtxIx) (x : Context) (code : Code) :
    (s.writeOutcome c x code).params = s.params := by rw [State.writeOutcome_eq]

/-- The data of an outcome lies in bytes 24 to 27 of its cell; a context that names a cell writes there and in its
result's bytes alone. -/
theorem State.byte_writeOutcome (s : State) (c : CtxIx) (x : Context) (code : Code) (a : Nat)
    (h : ∀ cell, x.cell = some cell → ¬ inResult cell a ∧ ¬ inBlock (cellBase cell + 24) 4 a) :
    (s.writeOutcome c x code).byte a = s.byte a := by
  unfold State.writeOutcome
  cases hx : x.cell with
  | none => rfl
  | some cell =>
    obtain ⟨h1, h2⟩ := h cell hx
    dsimp only
    rw [State.byte_writeResult _ _ _ _ h1]
    simp only [State.writeData_cons, State.writeData_nil]
    unfold inBlock at h2
    rw [State.byte_writeCell_outside, State.byte_writeCell_outside]
    · show a < _ ∨ cellBase cell + 24 + 2 ≤ a; omega
    · show a < _ ∨ cellBase cell + 26 + 2 ≤ a; omega

@[simp] theorem State.slot_writeOutcome (s : State) (c : CtxIx) (x : Context) (code : Code) (k : SlotIx) :
    (s.writeOutcome c x code).slot k = s.slot k := by
  apply State.slot_congr; intro n hn; apply State.byte_writeOutcome
  intro cell _
  have := slotBase_ge k; have := cellBase_lt cell; unfold inResult inBlock; omega

@[simp] theorem State.key_writeOutcome (s : State) (c : CtxIx) (x : Context) (code : Code) (i : RecIx) :
    (s.writeOutcome c x code).key i = s.key i := by
  apply State.key_congr; intro n hn; apply State.byte_writeOutcome
  intro cell _
  have := keyBase_ge i; have := cellBase_lt cell; unfold inResult inBlock; omega

/-- An outcome is the result of the context's cell. -/
theorem State.holdsResult_writeOutcome (s : State) (c : CtxIx) (x : Context) (code : Code) (cell : CellIx)
    (h : x.cell = some cell) :
    (s.writeOutcome c x code).holdsResult cell code (BitVec.ofNat 8 c.val) (ofIx? x.key) := by
  have e : s.writeOutcome c x code = s.writeResult cell
      { code := code, detail := BitVec.ofNat 8 c.val, index := ofIx? x.key,
        data := [(24, le16 (ofIx x.slot)), (26, le16 (BitVec.ofNat 16 x.window))] } := by
    unfold State.writeOutcome; rw [h]
  rw [e]
  exact State.holdsResult_writeResult s cell _

/-- A key back in its slot changes its two records and what an update of the slot changes. -/
theorem State.backToHeld_eq (s : State) (i : RecIx) (k : SlotIx) :
    s.backToHeld i k = { s with
      store := (s.backToHeld i k).store
      chips := (s.backToHeld i k).chips
      heldSlots := (s.backToHeld i k).heldSlots
      emptySlots := (s.backToHeld i k).emptySlots
      mlc := { s.mlc with queue := (s.backToHeld i k).mlc.queue, waiting := (s.backToHeld i k).mlc.waiting }
      counters := (s.backToHeld i k).counters } := by
  unfold State.backToHeld; rw [State.updateSlot_eq]; rfl

@[simp] theorem State.backToHeld_board (s : State) (i : RecIx) (k : SlotIx) : (s.backToHeld i k).board = s.board := by
  rw [State.backToHeld_eq]
@[simp] theorem State.backToHeld_poster (s : State) (i : RecIx) (k : SlotIx) : (s.backToHeld i k).poster = s.poster := by
  rw [State.backToHeld_eq]
@[simp] theorem State.backToHeld_release (s : State) (i : RecIx) (k : SlotIx) : (s.backToHeld i k).release = s.release := by
  rw [State.backToHeld_eq]
@[simp] theorem State.backToHeld_port (s : State) (i : RecIx) (k : SlotIx) : (s.backToHeld i k).port = s.port := by
  rw [State.backToHeld_eq]

@[simp] theorem State.key_modKey (s : State) (i : RecIx) (f : KeyRec → KeyRec) : (s.modKey i f).key i = f (s.key i) :=
  State.key_setKey _ _ _

theorem State.key_modKey_ne (s : State) {i j : RecIx} (h : j ≠ i) (f : KeyRec → KeyRec) : (s.modKey i f).key j = s.key j :=
  State.key_setKey_ne _ h _

@[simp] theorem State.slot_modKey (s : State) (i : RecIx) (f : KeyRec → KeyRec) (k : SlotIx) :
    (s.modKey i f).slot k = s.slot k := State.slot_setKey _ _ _ _

@[simp] theorem State.slot_modSlot (s : State) (k : SlotIx) (f : SlotRec → SlotRec) : (s.modSlot k f).slot k = f (s.slot k) :=
  State.slot_setSlot _ _ _

@[simp] theorem State.key_modSlot (s : State) (k : SlotIx) (f : SlotRec → SlotRec) (i : RecIx) :
    (s.modSlot k f).key i = s.key i := State.key_setSlot _ _ _ _

@[simp] theorem State.key_backToHeld (s : State) (i : RecIx) (k : SlotIx) :
    (s.backToHeld i k).key i = { s.key i with state := .resting } := by
  unfold State.backToHeld; rw [State.key_updateSlot, State.key_modKey]

@[simp] theorem State.slot_backToHeld (s : State) (i : RecIx) (k : SlotIx) :
    (s.backToHeld i k).slot k =
      { (s.slot k).holding i with lamp := newLamp (s.slot k) ((s.slot k).holding i) } := by
  unfold State.backToHeld; rw [State.slot_updateSlot, State.slot_modKey]

/-- A cell's result stays when another order's cell is written. -/
theorem State.holdsResult_other {s t : State} {cell : CellIx} {code : Code} {d : Byte} {x : Half}
    (h : s.holdsResult cell code d x) (hb : ∀ n, n < 8 → t.byte (cellBase cell + n) = s.byte (cellBase cell + n))
    (hp : t.port.doneSummary.getLsbD cell.val = true) : t.holdsResult cell code d x := by
  obtain ⟨h0, h4, h5, h6, _⟩ := h
  have e : ∀ n, n < 8 → t.cellByte cell n = s.cellByte cell n := hb
  refine ⟨?_, ?_, ?_, ?_, hp⟩
  · rw [e 0 (by omega)]; exact h0
  · rw [e 4 (by omega)]; exact h4
  · rw [e 5 (by omega)]; exact h5
  · unfold half at *; rw [e 6 (by omega), e 7 (by omega)]; exact h6

/-! ## Lists of steps -/

/-- A part of the state that each step of a list leaves, the list leaves. -/
theorem foldl_field {α β : Type} (g : State → β) (f : State → α → State) (hf : ∀ s x, g (f s x) = g s) (l : List α)
    (s : State) : g (l.foldl f s) = g s := by
  induction l generalizing s with
  | nil => rfl
  | cons x l ih => rw [List.foldl_cons, ih, hf]

/-- An update of a slot record of a module that is not ONLINE makes no request. -/
theorem State.updateSlot_offline (s : State) (k : SlotIx) (f : SlotRec → SlotRec) (hm : s.online (moduleOf k) = false) :
    (s.updateSlot k f).mlc = s.mlc ∧ (s.updateSlot k f).counters = s.counters := by
  have hu : (s.updated k f).mlc = s.mlc ∧ (s.updated k f).counters = s.counters := by
    unfold State.updated; dsimp only; split <;> exact ⟨rfl, rfl⟩
  rw [State.updateSlot_split]
  split
  · unfold State.requestLamp
    split
    · exact hu
    · rw [State.offerLine_offline]
      · exact hu
      · show (s.updated k f).online (moduleOf k) = false
        unfold State.online State.modEntry at *
        simp only [hu.1]; exact hm
  · exact hu

/-! ## Latch answers, failed re-issues, discarded survey counts -/

/-- A latch answer below the commanded position raises the mark; any answer ends the outstanding request (R28, R90). -/
theorem State.latchAnswered_cases (s : State) (k : SlotIx) (reached : Bool) :
    let u := s.modChip k (fun c => { c with latchOut := none, reissued := false })
    reached = true ∧ s.latchAnswered k reached = u ∨
      reached = false ∧ s.latchAnswered k reached = u.raiseSlotMark k .latchFault := by
  cases reached
  · exact .inr ⟨rfl, rfl⟩
  · exact .inl ⟨rfl, rfl⟩

/-- The loss of a module by a transaction's failure is the module's loss, but for the slot whose re-issued close failed
(R99). -/
theorem State.lostBy_cases (s : State) (w : Work) (m : ModIx) :
    s.reissueOf w = none ∧ s.lostBy w m = s.moduleLost m ∨
      ∃ k, w = .command (.latch k .close) ∧ (s.chip k).reissued = true ∧
        s.lostBy w m = (s.moduleLost m).updateSlot k (fun r => { r with latch := .jammed }) := by
  unfold State.lostBy
  split
  · rename_i k e
    refine .inr ⟨k, ?_⟩
    unfold State.reissueOf at e
    split at e
    · split at e
      · rename_i h
        obtain rfl := Option.some.inj e
        exact ⟨rfl, h, rfl⟩
      · exact nomatch e
    · exact nomatch e
  · exact .inl ⟨‹_›, rfl⟩

/-- A discarded survey reply is measured again, or is the third and leaves the survey without counts (R174). -/
theorem Survey.discard_cases (v : Survey) :
    v.discards + 1 < 3 ∧ v.discard = { v with discards := v.discards + 1, counts := .awaited, stage := .measure } ∨
      3 ≤ v.discards + 1 ∧ v.discard = { v with discards := v.discards + 1, counts := .givenUp, stage := .fobs } := by
  unfold Survey.discard
  split
  · exact .inl ⟨‹_›, rfl⟩
  · exact .inr ⟨by omega, rfl⟩

end Sys2Proof.Machine
end

