-- ==== Sys2Proof/WellFormed.lean ====
section
/-! DEFINITION. Which commands are written under the right row: each check names what the row's access must be. The part
judges every access as it comes (`Machine.State.hostWrite`, `Machine.State.registerWrite`), so a command that fails a check
is only misnamed, not without meaning. -/

namespace Sys2Proof

/-- Whether a word address lies in a byte range of the Common Store (00_scope.md, Common Store map). -/
def inArea (addr : BitVec 15) (base limit : Nat) : Bool := base ≤ 2 * addr.toNat && 2 * addr.toNat < limit

/-- Whether the bytes of one character run fit a reply: an address character of the reply kind, its length character,
and nothing beyond the check character (section 4.2). -/
def replyShape (kind length : Nat) (chars : List RxChar) : Bool :=
  match chars with
  | [] => false
  | a :: rest =>
    a.mark && a.data.toNat / 16 == kind && rest.length == length + 2 &&
      rest.head?.any (fun c => c.data.toNat == length) && rest.all (fun c => !c.mark)

/-- Whether a command is written under its own row. -/
def Instr.wellFormed : Instr → Bool
  | .hostCellWrite addr _ _ _ => inArea addr 0 0x0800
  | .hostShelfWrite addr _ _ _ => inArea addr 0x0800 0x0C00
  | .hostGuardedAreaWrite addr _ _ _ => inArea addr 0x0C00 0x10000
  | .setInterruptEnables data => !data.getLsbD 2
  | .softReset data => data.getLsbD 2
  | .registerWriteIgnored word _ => word == 2 || word == 3 || 5 ≤ word.toNat
  | .countsReply chars => replyShape 10 37 chars
  | .fobReply chars => replyShape 11 6 chars
  | .latchReply chars => replyShape 12 2 chars
  | .lampReply chars => replyShape 13 1 chars
  | .identifyReply chars => replyShape 14 2 chars
  | .replyFailedAttempt chars => !chars.isEmpty
  | .powerOnReset => true
  | .resetEnd => true
  | .storeClearingWord => true
  | .hostStoreRead _ => true
  | .portStatusClear _ => true
  | .attention _ => true
  | .scanTimerExpiry => true
  | .scanExamination => true
  | .badKind _ => true
  | .enrolKey _ => true
  | .retireKey _ => true
  | .armKey _ => true
  | .disarmKey _ => true
  | .findKey _ => true
  | .pinSlot _ => true
  | .unpinSlot _ => true
  | .withdrawSlot _ => true
  | .restoreSlot _ => true
  | .handOut _ => true
  | .cancelHandOut _ => true
  | .declareLost _ => true
  | .extendLoan _ => true
  | .setClock _ => true
  | .setCounter _ => true
  | .readCounters _ => true
  | .setParameter _ => true
  | .walkStep => true
  | .walkCompletion => true
  | .lineWorkStart => true
  | .requestFrameSent => true
  | .waitTimerExpiry _ => true
  | .replyTimerExpiry => true
  | .roundTimerExpiry => true
  | .probeDue _ => true
  | .removalTimerExpiry _ => true
  | .settleEnd _ => true
  | .jamReissue => true
  | .secondTick => true
  | .minuteEvent => true
  | .passVisit => true
  | .rebuildStep => true
  | .deferredScanStep => true
  | .retryAttemptStart => true

end Sys2Proof
end

