-- ==== Sys2Proof/Tests/Slice0.lean ====
section
/-! SUPPORT. The model's own tests: the ill-formed commands the checks refuse, the manual's worked examples, and for every
statement with hypotheses a state and operands that meet them, clause by clause. -/

namespace Sys2Proof.Tests

open Sys2Proof Sys2Proof.Machine

-- One evaluation at a time: side by side they ask for more threads than the memory limit leaves room for.
set_option Elab.async false

/-! ## Well-formed commands -/

theorem test_wf_cell_area : (Instr.hostCellWrite 0x400 1 true true).wellFormed = false ∧
    (Instr.hostCellWrite 0x3FF 1 true true).wellFormed = true := by decide
theorem test_wf_shelf_area : (Instr.hostShelfWrite 0x3FF 0 true false).wellFormed = false ∧
    (Instr.hostShelfWrite 0x600 0 true false).wellFormed = false ∧
    (Instr.hostShelfWrite 0x5FF 0 true false).wellFormed = true := by decide
theorem test_wf_guarded_area : (Instr.hostGuardedAreaWrite 0x5FF 0 true true).wellFormed = false ∧
    (Instr.hostGuardedAreaWrite 0x7FFF 0 true true).wellFormed = true := by decide
theorem test_wf_control : (Instr.setInterruptEnables 4).wellFormed = false ∧ (Instr.softReset 3).wellFormed = false := by
  decide
theorem test_wf_ignored_word : (Instr.registerWriteIgnored 0 0).wellFormed = false ∧
    (Instr.registerWriteIgnored 4 0).wellFormed = false ∧ (Instr.registerWriteIgnored 5 0).wellFormed = true := by decide

/-- The characters of a frame as they arrive: mark 1 on the first. -/
def arrive : List Byte → List RxChar
  | [] => []
  | a :: r => ⟨a, true, true⟩ :: r.map (fun b => ⟨b, false, true⟩)

theorem test_wf_reply : (Instr.fobReply (arrive (frame 12 1 [3, 1]))).wellFormed = false ∧
    (Instr.latchReply (arrive (frame 12 1 [3, 1]))).wellFormed = true ∧
    (Instr.lampReply (arrive (frame 13 1 [3, 1]))).wellFormed = false ∧
    (Instr.identifyReply []).wellFormed = false ∧ (Instr.countsReply (arrive (frame 11 1 [3, 1]))).wellFormed = false ∧
    (Instr.replyFailedAttempt []).wellFormed = false := by decide

/-- The table gives its rows no bits, so no word spells a command, and a fetch word leaves the queue alone. -/
theorem test_no_word_spells_a_command : decodeTableWord 16 0xFFFF = none ∧
    (State.reset.withFetchWord 16 0xFFFF).pending = [] := ⟨rfl, rfl⟩

/-! ## Worked examples of the manual -/

/-- Section 1.7: the home indexes of fobs A to E under H 512 and 1,024. -/
theorem test_home_index : ([0x3A5C1B72, 0x513D0308, 0xC27E47AF, 0x00200289, 0x00400489].map (homeIndex · 512) =
    [137, 137, 137, 137, 137]) ∧ homeIndex 0x3A5C1B72 1024 = 649 ∧ homeIndex 0x00400489 1024 = 137 ∧
    homeBase 137 = 0x3112 ∧ keyBase 2 = 0x3840 := by decide

/-- Section 4.9: the frames of the worked round. -/
theorem test_frames : measureFrame 0 1 0x29 1000 = [0x10, 0x04, 0x01, 0x29, 0xE8, 0x03, 0xD7] ∧
    measureFrame 1 1 0x2A 1000 = [0x11, 0x04, 0x01, 0x2A, 0xE8, 0x03, 0xD5] ∧
    State.reset.frameFor (.roundRead 2) = [0x22, 0x00, 0xDE] ∧ State.reset.frameFor (.probe 3) = [0x63, 0x00, 0x9D] := by
  decide

/-- Section 4.9: the IDENTIFY reply of module 3. -/
theorem test_identify_reply :
    judge ⟨0xE3, 2, none⟩ (arrive [0xE3, 0x02, 0x18, 0x05, 0xFE]) = .good [24, 5] ∧
    judge ⟨0xE3, 2, none⟩ (arrive [0xE3, 0x02, 0x18, 0x05, 0xFF]) = .failed := by decide

/-- Section 4.2: counts 2,400 and 2,188 are carried as 0x60, 0xC9, 0x88. -/
theorem test_counts : (countsOf [41, 0x60, 0xC9, 0x88]).take 2 = [2400, 2188] := by decide

/-- Sections 3.8 and 3.10: drift. -/
theorem test_drift : drifted 4 38400 2398 = 38398 ∧ drifted 4 38400 2401 = 38401 ∧ drifted 4 38401 2401 = 38401 ∧
    drifted 4 38398 2399 = 38397 ∧ drifted 1 38400 2399 = 38392 := by decide

/-- Sections 3.11 and 3.12: rescaled and seeded baselines, with their clamps. -/
theorem test_rescale_and_seed : rescaled 38398 1500 1000 = 57597 ∧ rescaled 38398 64 1000 = 2457 ∧
    rescaled 38398 4095 1000 = 65520 ∧ seeded 2100 200 = 36800 ∧ seeded 4000 200 = 65520 := by decide

/-- Section 7.7: levels at minute 20,000. -/
theorem test_levels : [19700, 19760, 19970, 19990, 20000, 20040].map (levelAt 20000 · 30 240) = [3, 3, 2, 1, 1, 0] := by
  decide

/-! ## States for the witnesses -/

/-- A slot as a survey leaves it empty: learned baseline 38,400. -/
def emptySlot : SlotRec :=
  { State.reset.slot 0 with learned := true, baseline := 38400, raw := 2399, history := 0x55555555 }

/-- An enrolled key. -/
def aKey : KeyRec :=
  { State.reset.key 0 with state := .awaited, armed := true, cls := 3, next := 0xFFFF, fob := 0x3A5C1B72, vehicle := 77 }

/-- A running part: READY, the clock set at minute 11,530, the given state in every entry of the module table. -/
def up (st : ModState) : State :=
  { State.reset with
    phase := .running
    port := { Port.reset with ready := true }
    mlc := { Mlc.reset with modules := Vector.replicate 16 { ModEntry.reset with state := st, surveyed := true } }
    walker := { Walker.reset with inUse := 3, spare := 1597, spareHead := 3 }
    loans := { Loans.reset with minute := 11530, clockSet := true } }

def running : State := up .online

/-- An order of this kind POSTED in cell 5, the scan standing at the cell; `bs` are its bytes from byte 8. -/
def posted (kind : Byte) (bs : List Byte) (s : State := running) : State :=
  { s with board := { s.board with scan := some { start := 5, examined := 0 } } }.writeCell 5 0
    ([1, kind, 0, 0, 0, 0, 0, 0] ++ bs)

/-- An order of this kind taken from cell 5, whose walk for fob A is in progress. -/
def walking (kind : Byte) (bs : List Byte) (found pred : Option RecIx) (s : State := running) : State :=
  { s with
    board := { s.board with
      execution := some { order := { cell := 5, copy := [kind, 0, 0, 0, 0, 0, 0] ++ bs }, window := 30 } }
    walker := { s.walker with
      walk := some { asker := .order, fob := 0x3A5C1B72, home := 137, cursor := 0xFFFF, depth := 2, pred := pred,
                     found := found } } }

/-- The line work in progress. -/
def lining (w : Work) (ph : AttemptPhase) (attempt : Nat := 1) (s : State := running) : State :=
  { s with
    mlc := { s.mlc with
      identNext := 16
      transaction := some { work := w, frame := [], attempt := attempt, phase := ph, received := [], divider := 3,
                            replyMs := 5 } } }

def aRound (st : RoundStage) (reads probes : List ModIx) : Round :=
  { groups := 1, group := 0, stage := st, readList := reads, probeList := probes, waitUs := 0 }

/-- The state with this round in progress. -/
def inRound (r : Round) (s : State) : State := { s with mlc := { s.mlc with round := some r } }

/-- A context of slot 75. -/
def aCtx (st : CtxState) : Context :=
  { state := st, cell := some 6, key := some 7, slot := 75, agreement := 7001, due := 11600, window := 30,
    cancelNoted := false, removalDecided := false, timer := false, settle := none }

/-- The state with this context as context 2, in use alone. -/
def inCtx (y : Context) (s : State) : State :=
  { s with release := { s.release with contexts := setAt s.release.contexts (2 : Fin 8) (some y), order := [2] } }

/-- The state with slot 75 as given. -/
def slot75 (r : SlotRec) (s : State := running) : State := s.setSlot 75 r

/-- The state with the Due List as given and a pass in progress. -/
def passing (due : List DueEntry) (p : Pass) : State :=
  { running with loans := { running.loans with due := due, pass := some p } }

/-- The state with all 32 shelf entries POSTED. -/
def shelfFull (s : State) : State :=
  (List.range 32).foldl (fun s e => s.writeStore (0x0800 + 32 * e) [1]) s

/-! ## Worked events of the manual -/

/-- The state a command leaves. -/
def after (i : Instr) (s : State) : State :=
  match exec i s with
  | .next t => t
  | _ => s

/-- Section 1.7: ENROL KEY A after a power-on reset takes record 0, at depth 0, and is home entry 137's first record. -/
theorem test_enrol_worked :
    let s := walking 1 (le32 0x3A5C1B72 ++ le32 77 ++ [3, 1]) none none { running with walker := Walker.reset }
    let t := after .walkCompletion s
    t.home 137 = 0 ∧ (t.key 0).state = .awaited ∧ (t.key 0).fob = 0x3A5C1B72 ∧ t.walker.spare = 1599 ∧
      t.walker.spareHead = 1 := by decide +kernel

/-- Section 7.7, visit 1: record 40, due 19,700, is visited at minute 20,000: level 3, announced, ESCALATED posted. -/
theorem test_visit_worked :
    let s := (passing [⟨40, 19700⟩] { minute := 20000, full := false, cursor := 0 }).setKey 40
      { aKey with state := .out, due := 19700, level := 2, announced := 2 }
    let t := after .passVisit s
    (t.key 40).level = 3 ∧ (t.key 40).announced = 3 ∧ t.byte (entryBase 0 + 1) = 3 ∧
      half t.byte (entryBase 0 + 30) = 300 := by decide +kernel

/-- Section 3.8, round 1: a count of 2,398 at an EMPTY slot with baseline 38,400 drifts it to 38,398. -/
theorem test_count_worked :
    let t := (slot75 { emptySlot with history := 0x55555555 }).processCount 75 2398
    (t.slot 75).baseline = 38398 ∧ (t.slot 75).raw = 2398 ∧ (t.slot 75).history = 0x55555555 := by decide +kernel

/-- R28: a latch short of the commanded position gets its mark though no context waits for the reply. -/
theorem test_latch_mark_without_context :
    let s := shelfFull ((lining (.command (.latch 75 .open_)) .awaiting).setSlot 75 { emptySlot with latch := .opening })
    ((after (.latchReply (arrive (frame 12 3 [3, 2]))) s).slot 75).markLatchFault = true := by decide +kernel

/-- R99: a re-issued close whose transaction fails leaves its latch JAMMED. -/
theorem test_failed_reissue_keeps_jammed :
    let s := ((lining (.command (.latch 75 .close)) .awaiting 3).setSlot 75 { emptySlot with latch := .closing }).modChip 75
      (fun c => { c with latchOut := some .close, reissued := true })
    ((after .replyTimerExpiry s).slot 75).latch = .jammed := by decide +kernel

/-- R59 and R174: the discard of survey counts held when WINDOW changes is the third. -/
theorem test_held_counts_are_discarded :
    let v : Survey := { module := 3, stage := .fobs, counts := .held [], discards := 2, nextPos := 3, fobs := [], waitUs := 0 }
    ({ running with mlc := { running.mlc with survey := some v } } : State).discardSurveyCounts.mlc.survey.map
      (fun v => (v.discards, v.counts, v.stage)) = some (3, .givenUp, .fobs) := by decide

/-! ## What meets the statements' hypotheses -/

theorem test_meets_StepRunsFront : (running.withPending [.secondTick]).pending = .secondTick :: [] ∧
    running.pending = [] := ⟨rfl, rfl⟩

theorem test_meets_StepKeeps : ∃ s t : State, s.storeOk ∧ s.intOk ∧ s.paramsOk ∧ s.spanOk ∧ s.lineOk ∧ s.quiet ∧
    step s = .next t :=
  ⟨State.reset.withPending [.resetEnd], { State.reset with phase := .clearing 0 }, by
    unfold State.storeOk; decide, rfl, by
    unfold State.paramsOk; decide, ⟨.inr (.inl rfl), nofun⟩, ⟨by decide, fun h => absurd rfl h⟩, rfl, rfl⟩

/-- A running part with no entry POSTED, and one with an entry of urgency 3 POSTED. -/
theorem test_meets_StepLeavesNoAlert :
    let s := { running.writeStore (entryBase 31) [1, 12, 3] with port := { running.port with alert := true } }
    running.phase ≠ .inReset ∧ (∀ w, running.phase ≠ .clearing w) ∧ running.alertOk ∧ s.alertOk :=
  ⟨nofun, nofun, by unfold State.alertOk; decide +kernel⟩

/-- A HOME SPAN order of 1,024 in execution. -/
theorem test_meets_StepKeepsParameters : (walking 17 [1, 0, 0, 0, 0, 4, 0, 0] none none).spanOk :=
  ⟨.inr (.inl rfl), fun _ h _ => by cases h; decide⟩

theorem test_meets_StoreIsCleared : State.reset.phase = .inReset ∧
    ({ State.reset with phase := .clearing 32766 } : State).phase = .clearing 32766 ∧
    ({ State.reset with phase := .clearing 32767 } : State).phase = .clearing 32767 := ⟨rfl, rfl, rfl⟩

/-- Cell 5 TAKEN and cell 6 not; context 2 refers to its key in a RELEASING slot. -/
theorem test_meets_SoftResetEvent :
    let s := inCtx (aCtx .opened) (slot75 { emptySlot with state := .releasing, key := 7 } (running.writeCell 5 0 [2]))
    s.phase ≠ .inReset ∧ (∀ w, s.phase ≠ .clearing w) ∧ (4 : Half).getLsbD 2 = true ∧ s.cellByte 5 0 = 2 ∧
    s.cellByte 6 0 ≠ 2 ∧ s.ctx 2 = some (aCtx .opened) ∧ (aCtx .opened).key = some 7 ∧
    (s.slot (aCtx .opened).slot).state = .releasing ∧
    (∀ c, (s.ctx c).all (fun y => (s.slot y.slot).state == .releasing) = true) ∧
    ({ State.reset with phase := .clearing 32767 } : State).phase = .clearing 32767 := ⟨nofun, nofun, by decide +kernel⟩

/-- Cell 31's last word, and the state bytes of cell 5 in every state the guard tells apart. -/
theorem test_meets_CellWriteGuard : running.phase ≠ .inReset ∧ (∀ w, running.phase ≠ .clearing w) ∧
    2 * (0x3FF : BitVec 15).toNat = cellBase 31 + 62 ∧ 2 * (0xA0 : BitVec 15).toNat = cellBase 5 + 0 ∧
    running.cellByte 5 0 = 0 ∧ (posted 7 []).cellByte 5 0 = 1 ∧ (running.writeCell 5 0 [3]).cellByte 5 0 = 3 ∧
    (running.writeCell 5 0 [2]).cellByte 5 0 = 2 ∧ (posted 7 []).quiet ∧ (posted 7 []).board.intake = [] ∧
    (posted 7 []).board.scan.map BoardScan.cell = some 5 ∧
    (after (.hostCellWrite 0xA0 0 true false) (posted 7 [])).cellByte 5 0 = 0 :=
  ⟨nofun, nofun, by unfold State.quiet; decide +kernel⟩

theorem test_meets_ShelfWriteGuard : running.phase ≠ .inReset ∧ (∀ w, running.phase ≠ .clearing w) ∧
    2 * (0x5FF : BitVec 15).toNat = entryBase 31 + 30 ∧ 2 * (0x5F0 : BitVec 15).toNat = entryBase 31 + 0 ∧
    (shelfFull running).byte (entryBase 31) = 1 ∧ running.byte (entryBase 31) = 0 := ⟨nofun, nofun, by decide +kernel⟩

theorem test_meets_StoreAccess : running.phase ≠ .inReset ∧ 0x0C00 ≤ 2 * (0x600 : BitVec 15).toNat ∧
    ({ State.reset with phase := .clearing 0 } : State).phase = .clearing 0 := ⟨nofun, by decide, rfl⟩

theorem test_meets_PortStatements : running.phase ≠ .inReset ∧ (3 : Half).getLsbD 2 = false ∧
    5 ≤ (5 : BitVec 15).toNat := ⟨nofun, by decide, by decide⟩

/-- READY 0; READY 1 with no scan; READY 1 with a scan running. -/
theorem test_meets_BoardScans_ask : running.phase ≠ .inReset ∧
    ({ running with port := Port.reset } : State).port.ready = false ∧
    (running.port.ready = true ∧ running.board.scan = none) ∧
    ((posted 7 []).port.ready = true ∧ (posted 7 []).board.scan ≠ none) := ⟨nofun, by decide +kernel⟩

/-- The last examination of a scan that began at cell 6, with and without a scan owed. -/
theorem test_meets_BoardScans_pass :
    let b : BoardScan := { start := 6, examined := 31 }
    let s : State := { running with board := { Board.reset with scan := some b, scanOwed := true } }
    s.quiet ∧ s.board.scan = some b ∧ s.cellByte b.cell 0 ≠ 1 ∧ s.board.intake = [] ∧ ¬ b.examined + 1 < 32 :=
  ⟨rfl, by decide +kernel⟩

theorem test_meets_BoardScans_take :
    let b : BoardScan := { start := 5, examined := 0 }
    let s := posted 7 [] (walking 5 [] none none)
    s.quiet ∧ s.board.scan = some b ∧ s.cellByte b.cell 0 = 1 ∧ s.board.execution ≠ none := ⟨rfl, by decide +kernel⟩

theorem test_meets_OrdersBegin_badKind :
    ((posted 0 []).quiet ∧ (posted 18 []).quiet) ∧ (posted 0 []).cellByte 5 1 = 0 ∧ (posted 0 []).orderDue 5 0 = true ∧
    17 < ((posted 18 []).cellByte 5 1).toNat ∧ (posted 18 []).orderDue 5 18 = true := ⟨⟨rfl, rfl⟩, by decide +kernel⟩

theorem test_meets_PinOrders_unpin :
    ((posted 7 (le16 383)).quiet ∧ (posted 7 (le16 384)).quiet) ∧
    (posted 7 (le16 383)).orderDue 5 7 = true ∧ half ((posted 7 (le16 383)).cellByte 5) 8 = ofIx (383 : SlotIx) ∧
    (posted 7 (le16 384)).orderDue 5 7 = true ∧ 384 ≤ (half ((posted 7 (le16 384)).cellByte 5) 8).toNat :=
  ⟨⟨rfl, rfl⟩, by decide +kernel⟩

/-- The slot orders with the first slot number that names no slot. -/
theorem test_meets_slotChecked : ∀ kind ∈ [6, 8, 9], (posted (BitVec.ofNat 8 kind) (le16 384)).orderDue 5 kind = true ∧
    384 ≤ (half ((posted (BitVec.ofNat 8 kind) (le16 384)).cellByte 5) 8).toNat := by decide +kernel

/-- The order PIN SLOT on slot 75, in each of its four outcomes. -/
theorem test_meets_PinOrders_pin :
    let order := fun (fob : Word) (r : SlotRec) => posted 6 (le16 75 ++ [0, 0] ++ le32 fob) ((slot75 r).setKey 7 aKey)
    (order 5 emptySlot).quiet ∧
    (order 0 emptySlot).orderDue 5 6 = true ∧ word ((order 0 emptySlot).cellByte 5) 12 = 0 ∧
    (order 5 { emptySlot with state := .withdrawn }).orderDue 5 6 = true ∧
    ((order 5 { emptySlot with state := .withdrawn }).slot 75).state = .withdrawn ∧
    (order 5 { emptySlot with state := .held, key := 7 }).orderDue 5 6 = true ∧
    recOf ((order 5 { emptySlot with state := .held, key := 7 }).slot 75).key = some 7 ∧
    ((order 5 { emptySlot with state := .held, key := 7 }).key 7).fob ≠ 5 ∧
    (order 5 emptySlot).orderDue 5 6 = true ∧ half ((order 5 emptySlot).cellByte 5) 8 = ofIx (75 : SlotIx) ∧
    ((order 5 emptySlot).slot 75).state ≠ .withdrawn ∧ recOf ((order 5 emptySlot).slot 75).key = none :=
  ⟨rfl, by decide +kernel⟩

theorem test_meets_WithdrawalOrders :
    let order := fun (kind : Byte) (r : SlotRec) => posted kind (le16 75) (slot75 r)
    let withdrawn := { emptySlot with state := .withdrawn }
    ((order 8 emptySlot).quiet ∧ (order 9 emptySlot).quiet) ∧
    (order 8 emptySlot).orderDue 5 8 = true ∧ half ((order 8 emptySlot).cellByte 5) 8 = ofIx (75 : SlotIx) ∧
    (order 8 emptySlot).slot 75 = emptySlot ∧ emptySlot.key = 0xFFFF ∧ emptySlot.latch = .closed ∧
    (order 8 withdrawn).orderDue 5 8 = true ∧ ((order 8 withdrawn).slot 75).state = .withdrawn ∧
    (order 8 { emptySlot with latch := .jammed }).orderDue 5 8 = true ∧
    ((order 8 { emptySlot with latch := .jammed }).slot 75).latch ≠ .closed ∧
    (order 9 withdrawn).orderDue 5 9 = true ∧ ((order 9 withdrawn).slot 75).state = .withdrawn ∧
    (order 9 emptySlot).orderDue 5 9 = true ∧ ((order 9 emptySlot).slot 75).state ≠ .withdrawn :=
  ⟨⟨rfl, rfl⟩, by decide +kernel⟩

theorem test_meets_ClockAndCounterOrders :
    let order := fun (kind : Byte) (bs : List Byte) => posted kind bs
    (order 14 (le32 0xFFFFFFFF)).quiet ∧ (order 14 (le32 0xFFFFFFFF)).orderDue 5 14 = true ∧
    (order 16 [1]).orderDue 5 16 = true ∧
    (order 15 [7, 1, 4, 0]).orderDue 5 15 = true ∧ ((order 15 [7, 1, 4, 0]).cellByte 5 8).toNat = 7 ∧
    ((order 15 [7, 1, 4, 0]).cellByte 5 9).toNat = 1 ∧ (half ((order 15 [7, 1, 4, 0]).cellByte 5) 10).toNat = 4 ∧
    (order 15 [8, 0, 0, 0]).orderDue 5 15 = true ∧ 7 < ((order 15 [8, 0, 0, 0]).cellByte 5 8).toNat :=
  ⟨rfl, by decide +kernel⟩

/-- SET PARAMETER: the ids at the ends of the first statement's list, and each clause of the second. -/
theorem test_meets_SetParameter :
    let order := fun (id : Half) (v : Word) => posted 17 (le16 id ++ [0, 0] ++ le32 v)
    let meets := fun (id : Half) (v : Word) => (order id v).orderDue 5 17 = true ∧ half ((order id v).cellByte 5) 8 = id ∧
      word ((order id v).cellByte 5) 12 = v
    (order 2 0).quiet ∧ meets 2 0 ∧ meets 16 4 ∧ meets 4 119 ∧ meets 14 10081 ∧ meets 10 4 ∧ meets 10 3 ∧ meets 1 1024 ∧
    meets 1 512 ∧ meets 1 511 ∧ meets 0 1 ∧ meets 17 1 ∧
    let survey : Survey := { module := 3, stage := .fobs, counts := .held [], discards := 2, nextPos := 3, fobs := [], waitUs := 0 }
    let surveyed : State := { order 2 1500 with mlc := { running.mlc with survey := some survey } }
    surveyed.orderDue 5 17 = true ∧ half (surveyed.cellByte 5) 8 = 2 ∧
    max 64 (min 4095 (word (surveyed.cellByte 5) 12).toNat) ≠ surveyed.params.window ∧
    surveyed.mlc.survey = some survey ∧ survey.counts = .held [] := by
  refine ⟨rfl, ?_⟩; decide +kernel

/-- CANCEL HAND OUT for cell 6, whose context 2 is in each of its states, and for cells that no context refers to. -/
theorem test_meets_CancelHandOut :
    let order := fun (cell : Byte) (y : Context) => posted 11 [cell] (inCtx y running)
    let meets := fun (y : Context) => (order 6 y).orderDue 5 11 = true ∧ ((order 6 y).cellByte 5 8).toNat = (6 : CellIx).val ∧
      (order 6 y).ctx 2 = some y ∧ y.cell = some 6 ∧ (order 6 y).ctx 0 = none ∧ (order 6 y).ctx 1 = none
    (order 6 (aCtx .opening)).quiet ∧ meets (aCtx .opening) ∧ meets { aCtx .opening with cancelNoted := true } ∧
    meets (aCtx .waiting) ∧ meets (aCtx .opened) ∧ meets (aCtx .relatching) ∧ meets (aCtx .closing) ∧
    (aCtx .waiting).key = some 7 ∧ ((6 : CellIx) ≠ 5) ∧
    (order 32 (aCtx .opening)).orderDue 5 11 = true ∧ 31 < ((order 32 (aCtx .opening)).cellByte 5 8).toNat ∧
    (order 31 (aCtx .opening)).orderDue 5 11 = true ∧ ((order 31 (aCtx .opening)).cellByte 5 8).toNat = 31 ∧
    (∀ x : CtxIx, ((order 31 (aCtx .opening)).ctx x).all (fun y => y.cell.map Fin.val != some 31) = true) ∧
    ((order 6 (aCtx .opened)).modEntry (moduleOf 75)).state = .online ∧ ((order 6 (aCtx .opened)).chip 75).latchOut = none ∧
    (((order 6 (aCtx .opened)).modChip 75 (fun c => { c with latchOut := some .close })).chip 75).latchOut ≠ none := by
  refine ⟨rfl, ?_⟩; decide +kernel

theorem test_meets_OrdersBegin :
    let order := fun (kind : Byte) (fob : Word) => posted kind (le32 fob)
    (order 1 5).quiet ∧
    (∀ kind ∈ [1, 2, 3, 4, 5, 12], (order (BitVec.ofNat 8 kind) 0xFFFFFFFE).orderDue 5 kind = true) ∧
    word ((order 1 0xFFFFFFFE).cellByte 5) 8 = 0xFFFFFFFE ∧
    (∀ kind ∈ [1, 2, 3, 4, 5, 10, 12, 13], (order (BitVec.ofNat 8 kind) 0).orderDue 5 kind = true) ∧
    word ((order 13 0).cellByte 5) 8 = 0 ∧ word ((order 13 0xFFFFFFFF).cellByte 5) 8 = 0xFFFFFFFF := by
  refine ⟨rfl, ?_⟩; decide +kernel

/-- HAND OUT and EXTEND LOAN: clock not set; due minute at now and at now + 525,600; the Due List with all its places
held. -/
theorem test_meets_LoanOrdersBegin :
    let order := fun (kind : Byte) (due : Nat) (s : State) =>
      posted kind (le32 5 ++ [0, 0, 0, 0] ++ le32 (BitVec.ofNat 32 due)) s
    let unset : State := { running with loans := Loans.reset }
    let full : State := { running with release := { running.release with reservations := 1024 } }
    ((order 10 0 unset).quiet) ∧
    (order 13 0 unset).orderDue 5 13 = true ∧ (order 13 0 unset).loans.clockSet = false ∧
    (order 13 0 running).orderDue 5 13 = true ∧ (order 13 0 running).loans.clockSet = true ∧
    (order 10 0 unset).orderDue 5 10 = true ∧ word ((order 10 0 unset).cellByte 5) 8 = 5 ∧
    (order 10 11530 running).orderDue 5 10 = true ∧
    ¬ (11530 < (word ((order 10 11530 running).cellByte 5) 16).toNat) ∧
    (order 10 537130 full).orderDue 5 10 = true ∧ (word ((order 10 537130 full).cellByte 5) 16).toNat = 11530 + 525600 ∧
    1024 ≤ (order 10 537130 full).loans.due.length + (order 10 537130 full).release.reservations ∧
    (order 10 537130 running).orderDue 5 10 = true ∧
    ¬ 1024 ≤ (order 10 537130 running).loans.due.length + (order 10 537130 running).release.reservations := by
  refine ⟨rfl, ?_⟩; decide +kernel

/-- A walk with record 1599 at its cursor: the match, and one that is not. -/
theorem test_meets_WalkStepExamines :
    let w : Walk := { asker := .order, fob := 0x3A5C1B72, home := 137, cursor := 1599, depth := 0, pred := none, found := none }
    let s : State := { running with walker := { running.walker with walk := some w } }
    s.walker.walk = some w ∧ w.found = none ∧ recOf w.cursor = some 1599 ∧ (s.key 1599).state = .unused ∧
    ((s.setKey 1599 aKey).key 1599).state ≠ .unused ∧ ((s.setKey 1599 aKey).key 1599).fob = w.fob := by decide +kernel

/-- An order of the kind completes, having found record `i`, or nothing. -/
theorem test_meets_completions :
    let meets := fun (kind : Byte) (found : Option RecIx) =>
      ∃ e w, (walking kind [] found (some 1)).completing e w ∧ w.found = found ∧ e.order.kind = kind.toNat
    (∀ kind ∈ [2, 3, 4, 5, 10, 12, 13], meets kind none) ∧ (∀ kind ∈ [1, 2, 3, 4, 5, 10, 12, 13], meets kind (some 0)) ∧
      meets 1 none ∧ meets 17 none := by
  intro meets
  have h : ∀ kind found, meets kind found := fun kind found =>
    ⟨_, _, ⟨rfl, rfl, rfl, rfl, rfl, rfl, rfl, .inr rfl⟩, rfl, rfl⟩
  exact ⟨fun _ _ => h _ _, fun _ _ => h _ _, h _ _, h _ _⟩

/-- HOME SPAN's walk, with records in use and with none. -/
theorem test_meets_HomeSpan :
    let s := walking 17 ([1, 0, 0, 0] ++ le32 1024) none none
    let empty := walking 17 ([1, 0, 0, 0] ++ le32 1024) none none { running with walker := Walker.reset }
    s.board.execution.map (fun e => half e.order.byte 8) = some 1 ∧ s.walker.inUse ≠ 0 ∧ empty.walker.inUse = 0 := by
  decide +kernel

/-- RETIRE KEY of an AWAITED record at the head of its chain and behind another, and of one that is IN. -/
theorem test_meets_RetireKeyCompletes :
    let s := fun (st : Custody) => (walking 2 [] (some 0) none).setKey 0 { aKey with state := st }
    ((s .awaited).key 0).state = .awaited ∧ ((s .lost).key 0).state = .lost ∧ ((s .resting).key 0).state = .resting ∧
    (137 < 1024) ∧ ((some 1 : Option RecIx) ≠ some 0) ∧ ((none : Option RecIx) ≠ some 0) := by decide +kernel

/-- ENROL KEY: a duplicate, no spare record, and the spare record 3 with no STRANGER slot and with slot 75 showing the
fob; with a loan part, room for its entry and none. -/
theorem test_meets_EnrolKeyCompletes :
    let o := (le32 0x3A5C1B72 ++ le32 77 ++ [3, 1] : List Byte)
    let s := walking 1 o none none
    let full : State := { s with walker := { s.walker with spare := 0 } }
    s.walker.spare ≠ 0 ∧ s.walker.spareHead = ofIx (3 : RecIx) ∧ full.walker.spare = 0 ∧
    (s.board.execution.map (fun e => (e.order.byte 17).getLsbD 1)) = some false ∧
    (∀ k : SlotIx, (s.slot k).state ≠ .stranger) ∧
    let shown := s.setSlot 75 { emptySlot with state := .stranger, fobSeen := 0x3A5C1B72 }
    (shown.slot 75).state = .stranger ∧ (shown.slot 75).fobSeen = 0x3A5C1B72 ∧ (shown.slot 75).pinned = false ∧
    (∀ k : SlotIx, k < 75 → (shown.slot k).state ≠ .stranger) ∧
    let pinned := shown.modSlot 75 (fun r => { r with pinned := true, pinnedFob := 4 })
    (pinned.slot 75).pinned = true ∧ (pinned.slot 75).pinnedFob ≠ 0x3A5C1B72 ∧ (pinned.slot 75).state = .stranger ∧
    pinned.byte (entryBase 0) = 0 ∧ (∀ e : EntryIx, (shelfFull pinned).byte (entryBase e) ≠ 0) ∧
    pinned.mlc.queue.length < 32 ∧
    let lent := walking 1 (le32 0x3A5C1B72 ++ le32 77 ++ [3, 3, 0, 0] ++ le32 1 ++ le32 2 ++ le32 200) none none
      { running with loans := { running.loans with due := [⟨1, 200⟩, ⟨2, 201⟩] } }
    let noRoom : State := { lent with release := { lent.release with reservations := 1022 } }
    (lent.board.execution.map (fun e => ((e.order.byte 17).getLsbD 1, word e.order.byte 28))) = some (true, 200) ∧
    ¬ 1024 ≤ lent.loans.due.length + lent.release.reservations ∧ 1024 ≤ noRoom.loans.due.length + noRoom.release.reservations ∧
    lent.loans.due = [⟨1, 200⟩] ++ [⟨2, 201⟩] := by decide +kernel

/-- HAND OUT's checks, each the first to fail, and the acceptance with and without room for the latch. -/
theorem test_meets_HandOut :
    let s := fun (st : Custody) (armed : Bool) (m : ModState) =>
      ((walking 10 [] (some 7) none (up m)).setKey 7 { aKey with state := st, armed := armed, slot := 75 }).setSlot 75
        { emptySlot with state := .held, key := 7 }
    let busy := inCtx (aCtx .closing) (s .resting true .online)
    let waited : State := { busy with release := { busy.release with waitLists := setAt busy.release.waitLists (3 : Fin 16) [2] } }
    ((s .out true .online).key 7).state = .out ∧ ((s .check true .online).key 7).state = .check ∧
    ((s .resting false .online).key 7).armed = false ∧ ((s .resting true .lost).modEntry (moduleOf 75)).state = .lost ∧
    ((s .resting true .online).key 7).state = .resting ∧ ((s .resting true .online).key 7).slot = ofIx (75 : SlotIx) ∧
    ((s .resting true .online).slot 75).state = .held ∧ ((s .resting true .online).slot 75).latch ≠ .opened ∧
    ((s .resting true .online).slot 75).lamp = .off ∧ (s .resting true .online).ctx 0 = none ∧
    (s .resting true .online).latchCount 3 < 2 ∧ (s .resting true .online).waitList 3 = [] ∧
    ((s .resting true .online).chip 75).latchOut = none ∧ waited.waitList 3 ≠ [] ∧ waited.ctx 0 = none ∧
    (∀ x, ({ busy with release := { busy.release with contexts := Vector.replicate 8 (some (aCtx .closing)) } } : State).ctx x ≠
      none) := by decide +kernel

/-- DECLARE LOST and EXTEND LOAN in each state they tell apart, the entry of record 7 second in the list. -/
theorem test_meets_LoanCompletions :
    let s := fun (st : Custody) => ({ walking 13 (le32 5 ++ le32 537130) (some 7) none with
      loans := { running.loans with due := [⟨1, 100⟩, ⟨7, 200⟩, ⟨2, 600000⟩] } } : State).setKey 7
        { aKey with state := st, slot := if st = .check then 75 else 0xFFFF, level := 2 }
    ((s .out).key 7).state = .out ∧ ((s .missing).key 7).state = .missing ∧ ((s .check).key 7).state = .check ∧
    ((s .check).key 7).slot = ofIx (75 : SlotIx) ∧ ((s .resting).key 7).state = .resting ∧
    (s .out).loans.due = [⟨1, 100⟩] ++ { key := 7, due := 200 } :: [⟨2, 600000⟩] ∧
    ([⟨1, 100⟩] ++ [⟨2, 600000⟩] : List DueEntry) = [⟨1, 100⟩] ++ [⟨2, 600000⟩] ∧
    ((s .out).board.execution.map (fun e => (word e.order.byte 12).toNat)) = some (11530 + 525600) := by decide +kernel

/-- A lookup for slot 75: applied to an AWAITED and an OUT record and to none, and discarded. -/
theorem test_meets_LookupApplied :
    let w := fun (f : Option RecIx) => ({ asker := .slot 75, fob := 0x3A5C1B72, home := 137, cursor := 0xFFFF, depth := 1,
                                          pred := none, found := f } : Walk)
    let s := fun (step : IdStep) (f : Option RecIx) (found : Bool) (st : Custody) =>
      (({ running with walker := { running.walker with walk := some (w f) } } : State).setKey 7
        { aKey with state := st }).setSlot 75 { emptySlot with state := .identifying, fobSeen := 0x3A5C1B72,
                                                               surveyFound := found } |>.modChip 75 (fun c => { c with step := step })
    (s .looking (some 7) false .out).quiet ∧
    (s .looking (some 7) false .out).walker.walk = some (w (some 7)) ∧ (s .looking none false .out).walker.walk = some (w none) ∧
    recOf (w none).cursor = none ∧ (s .looking none false .out).walker.slotRequests = [] ∧
    ((s .looking (some 7) false .out).slot 75).state = .identifying ∧ ((s .looking (some 7) false .out).chip 75).step = .looking ∧
    ((s .looking (some 7) false .out).slot 75).fobSeen = 0x3A5C1B72 ∧ ((s .looking (some 7) false .out).slot 75).pinned = false ∧
    ((s .looking (some 7) false .out).key 7).state = .out ∧ ((s .looking (some 7) false .out).key 7).announced = 0 ∧
    ((s .looking (some 7) false .awaited).key 7).state = .awaited ∧
    ((s .reading (some 7) false .out).chip 75).step ≠ .looking ∧
    ((s .looking none true .out).slot 75).surveyFound = true ∧ (s .looking none false .out).byte (entryBase 0) = 0 ∧
    (∀ e : EntryIx, (shelfFull (s .looking none false .out)).byte (entryBase e) ≠ 0) := by
  refine ⟨rfl, ?_⟩; decide +kernel

theorem test_meets_FramesAndReplies :
    let w : Awaited := ⟨0xB1, 6, some 3⟩
    let data : List Byte := [3, 0, 1, 2, 3, 4]
    data.length = w.length ∧ data.head? = some 3 ∧ (∀ x ∈ [({ data := 0xB1, mark := false, stop := true } : RxChar)], x.mark = false) ∧
    (w.address.toNat + ([6] ++ data ++ [0x3C] : List Byte).foldl (fun n b => n + b.toNat) 0) % 256 = 0 ∧
    (w.address.toNat + ([6] ++ data ++ [0x3D] : List Byte).foldl (fun n b => n + b.toNat) 0) % 256 ≠ 0 := by decide

/-- Replies of 6 data characters for position 3: a framing error in the address character, another kind, a framing error
and a mark 1 in the check character, another length, another position. -/
theorem test_meets_FramesAndReplies_failed :
    let w : Awaited := ⟨0xB1, 6, some 3⟩
    let x := fun b : Byte => ({ data := b, mark := false, stop := true } : RxChar)
    let first : RxChar := { data := 0xB1, mark := true, stop := true }
    let body := ([6, 3, 0, 1, 2, 3, 4] : List Byte).map x
    first.mark = true ∧ ({ first with stop := false } : RxChar).stop = false ∧ ({ first with data := 0xC1 } : RxChar).data ≠ w.address ∧
    { x 0x3C with stop := false } ∈ (body ++ [{ x 0x3C with stop := false }]).take (w.length + 2) ∧
    { x 0x3C with mark := true } ∈ (body ++ [{ x 0x3C with mark := true }]).take (w.length + 2) ∧
    ((body ++ [x 0x3C]).head?.map RxChar.data) = some (BitVec.ofNat 8 w.length) ∧
    (([x 5] ++ body.drop 1).head?.map RxChar.data) ≠ some (BitVec.ofNat 8 w.length) ∧
    (([x 6, x 4] ++ body.drop 2 ++ [x 0x3B])[1]?.map RxChar.data) = some 4 ∧
    w.length + 2 ≤ ([x 6, x 4] ++ body.drop 2 ++ [x 0x3B]).length := by decide

/-- Line work: the last probe of the identification, a queued request, and each step of a round. -/
theorem test_meets_LineWorkStarts :
    let s := fun (id : Nat) (q : List LineRequest) => ({ running with mlc := { running.mlc with identNext := id, queue := q } } : State)
    (s 15 []).quiet ∧
    (s 15 []).mlc.transaction = none ∧ (s 15 []).mlc.identNext = (15 : ModIx).val ∧
    (s 16 [.lamp 383]).mlc.queue = .lamp 383 :: [] ∧ (s 16 []).mlc.queue = [] ∧ (s 16 []).mlc.survey = none ∧
    (∀ m, ((s 16 []).modEntry m).surveying = false) ∧ (s 16 []).mlc.round = none ∧
    (inRound (aRound .reading [3] []) (s 16 [])).mlc.round = some (aRound .reading [3] []) ∧
    (inRound (aRound .measure [3] []) (s 16 [])).mlc.round = some (aRound .measure [3] []) ∧
    (inRound (aRound .probing [] [15]) (s 16 [])).mlc.round = some (aRound .probing [] [15]) := by
  refine ⟨rfl, ?_⟩; decide +kernel

/-- The steps of a survey: begun or to begin, its read, the fob of the last position, and its wait. -/
theorem test_meets_LineWorkStarts_survey :
    let v := fun (st : SurveyStage) (n : Nat) => ({ module := 3, stage := st, counts := .awaited, discards := 0, nextPos := n,
                                                    fobs := [], waitUs := 0 } : Survey)
    let s := fun (v : Option Survey) => ({ running with mlc := { running.mlc with identNext := 16, survey := v } } : State)
    let flagged := (s none).modModule 3 (fun e => { e with surveying := true })
    flagged.quiet ∧ flagged.mlc.transaction = none ∧ flagged.mlc.identNext = 16 ∧ flagged.mlc.queue = [] ∧
    flagged.mlc.survey = none ∧ (flagged.modEntry 3).surveying = true ∧
    (∀ j : ModIx, j < 3 → (flagged.modEntry j).surveying = false) ∧
    (s (some (v .measure 0))).mlc.survey = some (v .measure 0) ∧ (s (some (v .read 0))).mlc.survey = some (v .read 0) ∧
    (s (some (v .fobs 23))).mlc.survey = some (v .fobs 23) ∧
    ((s (some (v .fobs 23))).slot (slotAt 3 23)).state ≠ .withdrawn ∧ ¬ (∃ q : PosIx, 23 ≤ q.val ∧ q < 23) ∧
    (v .waiting 0).stage ∈ [SurveyStage.sending, .waiting, .reading] := by
  refine ⟨rfl, ?_⟩; decide +kernel

theorem test_meets_FramesEndAndWaitsExpire :
    let aSurvey := fun (st : SurveyStage) => ({ module := 3, stage := st, counts := .awaited, discards := 0, nextPos := 0,
                                                fobs := [], waitUs := 2000 } : Survey)
    let s := fun (st : SurveyStage) => ({ running with mlc := { running.mlc with survey := some (aSurvey st) } } : State)
    ((lining (.probe 3) .sending).mlc.transaction.map (fun x => (x.phase, x.work.awaited.isSome))) = some (.sending, true) ∧
    ((inRound (aRound .sending [3] []) (lining (.roundMeasure 0 0) .sending)).mlc.round.map Round.stage) = some .sending ∧
    ((lining (.surveyMeasure 3) .sending 1 (s .sending)).mlc.survey.map Survey.stage) = some .sending ∧
    ((inRound (aRound .waiting [3] []) running).mlc.round.map Round.stage) = some .waiting ∧
    ((s .waiting).mlc.survey.map Survey.stage) = some .waiting := by decide +kernel

/-- A LAMP attempt awaiting its reply, its failed reply, its retry due, and a probe that fails: of a module never
surveyed, of a surveyed UNKNOWN one as the next to last and as the last of the identification, and of a LOST one in a
round. -/
theorem test_meets_FailedAttemptsRetried :
    let s := lining (.command (.lamp 75)) .awaiting 2
    let probing := fun (n : Nat) (up : State) => ({ lining (.probe 3) .awaiting 1 up with
      phase := .softReset, mlc := { (lining (.probe 3) .awaiting 1 up).mlc with identNext := n } } : State)
    let inTurn := inRound (aRound .probing [] [3, 9]) (lining (.probe 3) .awaiting 1 (up .lost))
    s.quiet ∧ (s.mlc.transaction.map (fun x => (x.phase, x.attempt, x.work.module))) = some (.awaiting, 2, some 3) ∧
    ((Work.command (.lamp 75)).awaited.map (fun a => judge a (arrive [0xD3, 1, 3, 0]))) = some .failed ∧
    ((lining (.command (.lamp 75)) .retryDue 2).mlc.transaction.map Transaction.phase) = some .retryDue ∧
    ((Work.probe 3).awaited.map (fun a => judge a (arrive [0xE4, 2, 24, 5]))) = some .failed ∧
    (probing 14 State.reset).mlc.identNext = 14 ∧ ((probing 14 State.reset).modEntry 3).surveyed = false ∧
    (∀ n ∈ [14, 15], (probing n (up .unknown)).mlc.identNext = n) ∧ (probing 15 (up .unknown)).phase = .softReset ∧
    ((probing 14 (up .unknown)).modEntry 3).state = .unknown ∧ ((probing 14 (up .unknown)).modEntry 3).surveyed = true ∧
    (probing 14 (up .unknown)).byte (entryBase 0) = 0 ∧ inTurn.mlc.identNext = 16 ∧ inTurn.phase = .running ∧
    (inTurn.modEntry 3).state = .lost ∧ inTurn.mlc.round = some (aRound .probing [] [3, 9]) ∧
    [3, 9].erase (3 : ModIx) ≠ [] := by
  refine ⟨rfl, ?_⟩; decide +kernel

/-- Slot 75's re-issued close is the transaction that fails; module 3 has context 2, one of the requests waiting, and a
place in the read list. -/
theorem test_meets_ModuleLossEvent :
    let x := Work.command (.latch 75 .close)
    let s := ((inCtx (aCtx .waiting) (inRound (aRound .reading [3, 5] []) (lining x .awaiting 3))).setSlot 75
      { emptySlot with state := .releasing, key := 7, latch := .closing }).modChip 75 (fun c => { c with reissued := true })
    let s : State := { s with mlc := { s.mlc with queue := [.lamp 75, .lamp 200], waiting := [.lamp 201] } }
    s.quiet ∧ (s.mlc.transaction.map (fun x => (x.work, x.phase, x.attempt, x.work.module))) = some (x, .awaiting, 3, some 3) ∧
    s.phase = .running ∧ s.mlc.round = some (aRound .reading [3, 5] []) ∧ [3, 5].erase (3 : ModIx) ≠ [] ∧
    s.ctx 2 = some (aCtx .waiting) ∧ (aCtx .waiting).cell = some 6 ∧ (∀ c : CtxIx, c ≠ 2 → s.ctx c = none) ∧
    s.byte (entryBase 0) = 0 ∧ (s.slot 75).state = .releasing ∧ (s.slot 75).key = ofIx (7 : RecIx) ∧
    (s.chip 75).reissued = true ∧ (s.slot 74).state = .empty := by
  refine ⟨rfl, ?_⟩; decide +kernel

/-- The data of a COUNTS reply with this sequence number and one count for all positions. -/
def countsData (seq : Byte) (c : Nat) : List Byte :=
  seq :: (List.replicate 12 [BitVec.ofNat 8 c, BitVec.ofNat 8 (c / 256 + 16 * (c % 16)), BitVec.ofNat 8 (c / 16)]).flatten

/-- COUNTS replies of a round and of a survey, expected and stale. -/
theorem test_meets_CountsReplyOutcomes :
    let survey : Survey := { module := 3, stage := .reading, counts := .awaited, discards := 2, nextPos := 0, fobs := [],
                             waitUs := 2000 }
    let s := fun (seq : Byte) (w : Work) => ({ inRound (aRound .reading [3, 5] []) (lining w .awaiting) with
      mlc := { (inRound (aRound .reading [3, 5] []) (lining w .awaiting)).mlc with survey := some survey } } : State).modModule 3
        (fun e => { e with expected := some { seq := seq, window := 1000 } })
    (s 41 (.roundRead 3)).quiet ∧
    ((Work.roundRead 3).awaited.map (fun a => judge a (arrive (frame 10 3 (countsData 41 2400))))) =
      some (.good (countsData 41 2400)) ∧
    ((Work.surveyRead 3).awaited.map (fun a => judge a (arrive (frame 10 3 (countsData 41 2400))))) =
      some (.good (countsData 41 2400)) ∧
    (s 40 (.roundRead 3)).mlc.round = some (aRound .reading [3, 5] []) ∧
    ((s 40 (.roundRead 3)).modEntry 3).expected = some { seq := 40, window := 1000 } ∧
    ((s 41 (.surveyRead 3)).modEntry 3).expected = some { seq := 41, window := 1000 } ∧
    (s 41 (.surveyRead 3)).mlc.survey = some survey ∧ ((s 41 (.surveyRead 3)).slot (slotAt 3 0)).state ≠ .withdrawn := by
  refine ⟨rfl, ?_⟩; decide +kernel

/-- A COUNTS reply of module 3 is due. -/
def awaitingCounts : State :=
  (inRound (aRound .reading [3, 5] []) (lining (.roundRead 3) .awaiting)).modModule 3
    (fun e => { e with expected := some { seq := 41, window := 1000 } })

/-- The same with slot 75 as given. -/
def counted (r : SlotRec) : State := awaitingCounts.setSlot 75 r

/-- The reply that brings the count `n` at every position. -/
def allAt (n : Nat) : List RxChar := arrive (frame 10 3 (countsData 41 n))

theorem reply_arrives (s : State) (n : Nat) (hn : n ∈ [2400, 4095]) (hm : s.mlc = awaitingCounts.mlc)
    (hp : s.params = awaitingCounts.params) :
    s.countsArrive 3 (allAt n) (countsData 41 n) (aRound .reading [3, 5] []) [5] := by
  have good : ∀ n ∈ [2400, 4095], judge ⟨0xA3, 37, none⟩ (allAt n) = .good (countsData 41 n) := by decide +kernel
  unfold State.countsArrive State.modEntry
  rw [hm, hp]
  exact ⟨⟨_, _, rfl, rfl, rfl, rfl, good n hn⟩, rfl, rfl, rfl, by decide, rfl⟩

/-- The count that reply brings a position. -/
def brought (n : Nat) (p : PosIx) : Half := (countsOf (countsData 41 n)).getD p.val 0

/-- The count `n` is reported at slot 75 with verdict `v`, and nothing else of module 3 is disturbed by it. -/
def reports (s : State) (n : Nat) (v : BitVec 2) : Bool :=
  decide (∀ q : PosIx, q ≠ 3 → s.undisturbed (slotAt 3 q) (brought n q)) &&
    (decide (∀ c, (s.ctx c).all (fun y => y.settle.isNone) = true) &&
      (decide (s.verdict 75 (brought n 3) = v) &&
        ((if v = 3 then decide (s.eighthInvalid 75 (brought n 3)) else decide (s.reported 75 (brought n 3))) &&
          (decide ((s.modEntry 3).state = .online) && decide (s.byte (entryBase 0) = 0)))))

theorem reports_only {s : State} {n : Nat} {v : BitVec 2} (h : reports s n v = true) : s.reportsOnly 3 3 (brought n) := by
  simp only [reports, Bool.and_eq_true, decide_eq_true_eq] at h
  refine ⟨h.1, fun c y e _ _ => ?_⟩
  have := h.2.1 c
  rw [e] at this
  exact Option.isNone_iff_eq_none.mp this

/-- What the reports need of slot 75: a confirmed PRESENT, a confirmed ABSENT, and the eighth INVALID. -/
def showing (v : BitVec 2) (r : SlotRec) : SlotRec :=
  if v = 2 then { r with baseline := 40320, history := 0xA }
  else if v = 1 then { r with history := 0x5, decided := true } else { r with history := 0x3FFF }

/-- Counts of 2,400 at EMPTY slots, which disturb none, and slot 75 with the last of a confirmed run, or of eight
INVALID. -/
theorem test_meets_CountsJudged :
    ((counted emptySlot).quiet ∧
      (counted emptySlot).countsArrive 3 (allAt 2400) (countsData 41 2400) (aRound .reading [3, 5] []) [5]) ∧
    (∀ p : PosIx, (counted emptySlot).undisturbed (slotAt 3 p) ((countsOf (countsData 41 2400)).getD p.val 0)) ∧
    (∀ c, (counted emptySlot).ctx c = none) ∧
    ((counted (showing 1 { emptySlot with state := .fault, key := 7 })).slot 75).state = .fault ∧
    (counted (showing 1 { emptySlot with state := .fault, key := 7 })).reported 75 2400 :=
  ⟨⟨rfl, reply_arrives _ _ (by decide) rfl rfl⟩, by decide +kernel⟩

/-- The same reply with slot 75 RELATCHING and PRESENT, its context in a settle with two notices left. -/
theorem test_meets_CountsJudged_settle :
    let y := { aCtx .relatching with settle := some 2 }
    let s := inCtx y (counted (showing 2 { emptySlot with state := .relatching, key := 7 }))
    (s.quiet ∧ s.countsArrive 3 (allAt 2400) (countsData 41 2400) (aRound .reading [3, 5] []) [5]) ∧
    (∀ p : PosIx, s.undisturbed (slotAt 3 p) (brought 2400 p)) ∧ s.ctx 2 = some y ∧ y.settle = some 2 ∧
    moduleOf y.slot = 3 :=
  ⟨⟨rfl, reply_arrives _ _ (by decide) rfl rfl⟩, by decide +kernel⟩

theorem test_meets_PresenceReports :
    (∀ r : SlotRec, (counted r).quiet ∧
      (counted r).countsArrive 3 (allAt 2400) (countsData 41 2400) (aRound .reading [3, 5] []) [5]) ∧
    ([SlotState.empty, .identifying, .held, .stranger].all fun st =>
      reports (counted (showing 2 { emptySlot with state := st })) 2400 2) = true ∧
    ([SlotState.identifying, .held, .stranger].all fun st =>
      reports (counted (showing 1 { emptySlot with state := st, key := 7, lamp := lampFor st .closed })) 2400 1) = true :=
  ⟨fun r => ⟨rfl, reply_arrives _ _ (by decide) rfl rfl⟩, by decide +kernel⟩

theorem test_meets_DoubtfulSlotReports :
    (∀ r : SlotRec, (counted r).quiet ∧
      (counted r).countsArrive 3 (allAt 4095) (countsData 41 4095) (aRound .reading [3, 5] []) [5]) ∧
    ([SlotState.unverified, .fault].all fun st =>
      reports (counted (showing 1 { emptySlot with state := st })) 2400 1 &&
        reports (counted (showing 2 { emptySlot with state := st })) 2400 2 &&
        reports (counted (showing 1 { emptySlot with state := st, key := 7 })) 2400 1 &&
        reports (counted (showing 2 { emptySlot with state := st, key := 7 })) 2400 2) = true ∧
    ([SlotState.empty, .identifying, .held, .stranger, .unverified].all fun st =>
      reports (counted (showing 3 { emptySlot with state := st })) 4095 3) = true :=
  ⟨fun r => ⟨rfl, reply_arrives _ _ (by decide) rfl rfl⟩, by decide +kernel⟩

/-- Slot 75 in a hand-out, its context 2 in each state. -/
theorem test_meets_HandOutReports :
    let s := fun (v : BitVec 2) (y : Context) => inCtx y (counted (showing v { emptySlot with state := .releasing, key := 7 }))
    (∀ v y, ∀ n ∈ [2400, 4095], (s v y).quiet ∧
      (s v y).countsArrive 3 (allAt n) (countsData 41 n) (aRound .reading [3, 5] []) [5]) ∧
    ([CtxState.opening, .opened, .relatching, .waiting].all fun st => reports (s 1 (aCtx st)) 2400 1 &&
      decide ((s 1 (aCtx st)).ctx 2 = some (aCtx st) ∧ (aCtx st).settle = none)) = true ∧
    reports (s 3 (aCtx .opened)) 4095 3 = true ∧ 2 ∈ (s 3 (aCtx .opened)).release.order ∧
    (∀ c : CtxIx, c ≠ 2 → (s 3 (aCtx .opened)).ctx c = none) ∧ ((s 3 (aCtx .opened)).slot 75).key = ofIx (7 : RecIx) ∧
    ((s 3 (aCtx .opened)).slot 75).state = .releasing :=
  ⟨fun _ _ _ h => ⟨rfl, reply_arrives _ _ h rfl rfl⟩, by decide +kernel⟩

/-- The last READ FOB reply of the survey of module 3, which is the last of the power-on sequence; one with positions
left. -/
theorem test_meets_SurveyReadsAndSeeding :
    let v := fun (next : Nat) => ({ module := 3, stage := .fobs, counts := .held (List.replicate 24 2400), discards := 0,
                                    nextPos := next, fobs := [{ pos := 2, fob := none }], waitUs := 2000 } : Survey)
    let read := (lining (.surveyFob 3 3) .awaiting).modModule 3 (fun e => { e with surveyed := false, surveying := true })
    let s := fun (next : Nat) =>
      ({ read with phase := .powerOn, mlc := { read.mlc with survey := some (v next) } } : State)
    (s 24).quiet ∧ (s 24).paramsOk ∧
    ((Work.surveyFob 3 3).awaited.map (fun a => judge a (arrive (frame 11 3 ([3, 0] ++ le32 5))))) =
      some (.good ([3, 0] ++ le32 5)) ∧
    (s 24).mlc.survey = some (v 24) ∧ (∀ q : PosIx, ¬ 24 ≤ q.val) ∧ ((s 23).slot (slotAt 3 23)).state ≠ .withdrawn ∧
    [(2 : PosIx), 3].Nodup ∧ ((s 24).modEntry 3).state = .online ∧
    (∀ q, ((s 24).slot (slotAt 3 q)).lamp = .off ∧ ((s 24).slot (slotAt 3 q)).state = .empty) ∧
    (s 24).phase = .powerOn ∧ (s 24).mlc.identNext = 16 ∧ (∀ j, j ≠ 3 → ((s 24).modEntry j).surveying = false) ∧
    (s 24).board.scan = none := by
  refine ⟨rfl, ?_, ?_⟩
  · unfold State.paramsOk; decide
  · decide +kernel

/-- READ FOB replies: a fob, no contact on the second and third read, a verification, and a slot that awaits none. -/
theorem test_meets_FobReplyOutcomes :
    let s := fun (st : SlotState) (step : IdStep) (n : Byte) =>
      ((lining (.command (.readFob 75)) .awaiting).setSlot 75 { emptySlot with state := st, attempts := n, key := 7 }).setKey 7
        aKey |>.modChip 75 (fun c => { c with step := step })
    (s .identifying .reading 0).quiet ∧
    ((Work.command (.readFob 75)).awaited.map (fun a => judge a (arrive (frame 11 3 ([3, 0] ++ le32 0x3A5C1B72))))) =
      some (.good ([3, 0] ++ le32 0x3A5C1B72)) ∧
    ((Work.command (.readFob 75)).awaited.map (fun a => judge a (arrive (frame 11 3 ([3, 1] ++ le32 0))))) =
      some (.good ([3, 1] ++ le32 0)) ∧
    (s .identifying .reading 0).walker.walk = none ∧ (s .identifying .reading 0).walker.slotRequests = [] ∧
    ((s .identifying .reading 1).slot 75).attempts = 1 ∧ ((s .identifying .reading 1).chip 75).step = .reading ∧
    ((s .identifying .reading 1).modEntry (moduleOf 75)).state = .online ∧ ((s .identifying .reading 2).slot 75).attempts = 2 ∧
    ((s .unverified .verifying 0).slot 75).state = .unverified ∧ ((s .unverified .verifying 0).chip 75).step = .verifying ∧
    ((s .unverified .verifying 0).key 7).fob = 0x3A5C1B72 ∧ ((s .unverified .verifying 0).slot 75).key = ofIx (7 : RecIx) ∧
    ((s .held .none 0).slot 75).state = .held ∧
    ((Work.command (.readFob 75)).awaited.map (fun a => judge a (arrive (frame 11 3 ([3, 0] ++ le32 0xFFFFFFFF))))) =
      some (.good ([3, 0] ++ le32 0xFFFFFFFF)) ∧
    let busy : State := { s .identifying .reading 0 with walker :=
      { running.walker with walk := (walking 5 [] none none).walker.walk, slotRequests := [⟨74, 1⟩, ⟨75, 2⟩, ⟨76, 3⟩] } }
    busy.walker.walk ≠ none ∧ busy.walker.slotRequests = [⟨74, 1⟩] ++ ⟨75, 2⟩ :: [⟨76, 3⟩] ∧
    (∀ x ∈ [(⟨74, 1⟩ : SlotRequest)] ++ [⟨76, 3⟩], x.slot ≠ 75) := by
  refine ⟨rfl, ?_⟩; decide +kernel

/-- LATCH and LAMP replies for slot 75, with each kind of context. -/
theorem test_meets_LatchAndLampReplies :
    let s := fun (a : Action) (y : Context) => inCtx y ((lining (.command (.latch 75 a)) .awaiting).setSlot 75
      { emptySlot with state := .releasing, latch := .opening, key := 7 })
    let late := { aCtx .relatching with removalDecided := true }
    (s .open_ (aCtx .opening)).quiet ∧
    ((Work.command (.lamp 75)).awaited.map (fun a => judge a (arrive (frame 13 3 [3])))) = some (.good [3]) ∧
    (∀ b ∈ [0, 1, 2], ((Work.command (.latch 75 .open_)).awaited.map (fun a => judge a (arrive (frame 12 3 [3, b])))) =
      some (.good [3, b])) ∧
    ((s .open_ (aCtx .opening)).chip 75).latchOwed = none ∧ (s .open_ (aCtx .opening)).waitList (moduleOf 75) = [] ∧
    2 ∈ (s .open_ (aCtx .opening)).release.order ∧ (s .open_ (aCtx .opening)).ctx 2 = some (aCtx .opening) ∧
    (aCtx .opening).slot = 75 ∧ (∀ c : CtxIx, c ≠ 2 → (s .open_ (aCtx .opening)).ctx c = none) ∧
    ((s .open_ (aCtx .opening)).slot 75).state = .releasing ∧ ((s .open_ (aCtx .opening)).slot 75).latch = .opening ∧
    (s .open_ { aCtx .opening with cancelNoted := true }).ctx 2 = some { aCtx .opening with cancelNoted := true } ∧
    ((s .open_ (aCtx .opening)).modEntry (moduleOf 75)).state = .online ∧
    (s .close (aCtx .closing)).ctx 2 = some (aCtx .closing) ∧ (s .close late).ctx 2 = some late ∧
    (s .close (aCtx .relatching)).ctx 2 = some (aCtx .relatching) ∧ (aCtx .relatching).settle = none ∧
    (s .close (aCtx .closing)).byte (entryBase 0) = 0 ∧
    (∀ e : EntryIx, (shelfFull (s .close (aCtx .closing))).byte (entryBase e) ≠ 0) := by
  refine ⟨rfl, ?_⟩; decide +kernel

/-- IDENTIFY replies: 23 slots, a never-surveyed UNKNOWN module, and a surveyed LOST one on a round's probe list. -/
theorem test_meets_IdentifyReplyOutcomes :
    let first : State := { lining (.probe 3) .awaiting with
      phase := .powerOn, mlc := { (lining (.probe 3) .awaiting).mlc with identNext := 14, modules := Mlc.reset.modules } }
    let back := inRound (aRound .probing [] [3, 5]) (lining (.probe 3) .awaiting 1 (up .lost))
    (first.quiet ∧ back.quiet) ∧
    ((Work.probe 3).awaited.map (fun a => judge a (arrive (frame 14 3 [24, 5])))) = some (.good [24, 5]) ∧
    ((Work.probe 3).awaited.map (fun a => judge a (arrive (frame 14 3 [23, 5])))) = some (.good [23, 5]) ∧
    first.mlc.identNext < 15 ∧ (first.modEntry 3).state = .unknown ∧ (first.modEntry 3).surveyed = false ∧
    first.waitList 3 = [] ∧ (∀ p, (first.slot (slotAt 3 p)).latch = .closed) ∧
    back.mlc.identNext = 16 ∧ back.phase = .running ∧ back.mlc.round = some (aRound .probing [] [3, 5]) ∧
    (back.modEntry 3).state = .lost ∧ (back.modEntry 3).surveyed = true ∧ back.waitList 3 = [] ∧
    back.byte (entryBase 0) = 0 ∧ (∀ e : EntryIx, (shelfFull back).byte (entryBase e) ≠ 0) ∧ back.mlc.queue.length ≤ 8 ∧
    let again := (lining (.probe 3) .awaiting 1 (up .unknown)).setSlot 75 { emptySlot with state := .identifying, attempts := 2 }
    ({ again with mlc := { again.mlc with identNext := 14 } } : State).mlc.identNext < 15 ∧
    (again.modEntry 3).state = .unknown ∧ (again.modEntry 3).surveyed = true ∧ again.waitList 3 = [] ∧
    (again.slot 75).state = .identifying ∧
    let last : State := { lining (.probe 15) .awaiting with
      phase := .powerOn, mlc := { (lining (.probe 15) .awaiting).mlc with identNext := 15 } }
    ((Work.probe 15).awaited.map (fun a => judge a (arrive (frame 14 15 [23, 5])))) = some (.good [23, 5]) ∧
    last.mlc.identNext = 15 ∧ (∀ j, (last.modEntry j).surveying = false) ∧
    ((last.modModule 2 (fun e => { e with surveying := true })).modEntry 2).surveying = true := by
  refine ⟨⟨rfl, rfl⟩, ?_⟩; decide +kernel

theorem test_meets_RoundStarts :
    let s : State := { running with mlc := { running.mlc with roundTimer := .running 250 } }
    let lost := s.modModule 3 (fun e => { e with state := .lost, rounds := 7 })
    (lost.quiet) ∧ lost.mlc.roundTimer = .running 250 ∧ lost.mlc.round = none ∧ lost.params.measureGroups = 1 ∧
    (lost.modEntry 0).state = .online ∧ (lost.modEntry 0).surveying = false ∧ (lost.modEntry 3).state = .lost ∧
    (lost.modEntry 3).rounds = 7 ∧ (inRound (aRound .measure [0] []) s).mlc.round ≠ none := by
  refine ⟨rfl, ?_⟩; decide +kernel

theorem test_meets_ReleaseTimedEvents :
    let s := fun (y : Context) (st : SlotState) (l : Latch) (lamp : Lamp) =>
      inCtx y (slot75 { emptySlot with state := st, latch := l, lamp := lamp, key := 7 })
    let open_ := { aCtx .opened with timer := true }
    let settled := { aCtx .relatching with settle := some 1 }
    (s open_ .releasing .opened .flash).quiet ∧ (s open_ .releasing .opened .flash).ctx 2 = some open_ ∧
    ((s open_ .releasing .opened .flash).modEntry (moduleOf 75)).state = .online ∧
    ((s open_ .releasing .opened .flash).chip 75).latchOut = none ∧ (s open_ .releasing .opened .flash).mlc.queue = [] ∧
    ((s open_ .releasing .opened .flash).slot 75).latch = .opened ∧ ((s open_ .releasing .opened .flash).slot 75).lamp = .flash ∧
    (s settled .relatching .closed .off).ctx 2 = some settled ∧
    ((s settled .relatching .closed .off).slot 75).state = .relatching ∧ ((s settled .relatching .closed .off).slot 75).lamp = .off ∧
    ({ running with release := { running.release with roundEnds := 7 } } : State).release.roundEnds = 7 := by
  refine ⟨rfl, ?_⟩; decide +kernel

/-- Seconds 58 and 59; the clock not set; a rebuild running; entries in the list and none. -/
theorem test_meets_ClockTicks :
    let s := fun (n : Nat) (l : Loans) => ({ running with loans := { l with second := n } } : State)
    let due := { running.loans with due := [⟨7, 100⟩] }
    let counting := (running.counters.map (fun c => { c with accumulate := true, kinds := 4 }))
    (s 58 due).loans.second < 59 ∧ (s 59 due).loans.second = 59 ∧ (s 59 due).loans.clockSet = true ∧ (s 59 due).loans.due ≠ [] ∧
    (s 59 due).loans.pass = none ∧ (s 59 due).loans.rebuild = none ∧ (s 59 Loans.reset).loans.clockSet = false ∧
    (s 59 running.loans).loans.due = [] ∧ (s 59 { due with rebuild := some 0 }).loans.rebuild ≠ none ∧
    ((4, 0) ∈ [(0, 0), (1, 0), (2, 0), (3, 384), (4, 0)]) ∧ counting[7].accumulate = true ∧
    running.counters[7].accumulate = false := by decide +kernel

/-- A pass at minute 11,530: a visit that owes nothing, one that owes an announcement, and the pass's end. -/
theorem test_meets_PassVisits :
    let p : Pass := { minute := 11530, full := false, cursor := 0 }
    let s := (passing [⟨7, 11530⟩] p).setKey 7 { aKey with state := .out, due := 11530 }
    let late := (passing [⟨7, 11290⟩] p).setKey 7 { aKey with state := .out, due := 11290 }
    s.quiet ∧ s.loans.pass = some p ∧ s.loans.due[p.cursor]? = some ⟨7, 11530⟩ ∧
    levelAt 11530 11530 s.params.grace s.params.escalation = 1 ∧ ¬ s.params.announceFrom ≤ 1 ∧
    late.loans.due[p.cursor]? = some ⟨7, 11290⟩ ∧ levelAt 11530 11290 s.params.grace s.params.escalation = 3 ∧
    ((late.key 7).announced.toNat < 3 ∧ late.params.announceFrom ≤ 3) ∧ late.byte (entryBase 0) = 0 ∧
    (∀ a : EntryIx, (shelfFull late).byte (entryBase a) ≠ 0) ∧
    (∀ e ∈ (passing [⟨7, 11531⟩] p).loans.due[p.cursor]?, p.full = false ∧ p.minute.toNat < e.due.toNat) := by
  refine ⟨rfl, ?_⟩; decide +kernel

theorem test_meets_RebuildSteps :
    let s := fun (n : Nat) => ({ running with
      phase := .softReset, port := Port.reset, mlc := { running.mlc with identNext := 16 }
      loans := { running.loans with rebuild := some n, due := [⟨1, 100⟩, ⟨2, 300⟩], held := true } } : State)
    let out := (s 1598).setKey 1598 { aKey with state := .out, due := 100 }
    (s 1599).quiet ∧ (s 1599).loans.rebuild = some (1599 : RecIx).val ∧ ((s 1599).key 1599).state ≠ .out ∧
    (s 1599).loans.pass = none ∧ (s 1599).phase = .softReset ∧ (s 1599).mlc.identNext = 16 ∧ (s 1599).mlc.survey = none ∧
    (∀ m, ((s 1599).modEntry m).surveying = false) ∧ (s 1599).board.scan = none ∧ (s 1599).port.ready = false ∧
    out.loans.rebuild = some (1598 : RecIx).val ∧ (out.key 1598).state = .out ∧ out.loans.due = [⟨1, 100⟩] ++ [⟨2, 300⟩] ∧
    ((100 : Word).toNat ≤ (out.key 1598).due.toNat ∧ (out.key 1598).due.toNat < (300 : Word).toNat) ∧
    ((s 1598).key 1598).state ≠ .out := by
  refine ⟨rfl, ?_⟩; decide +kernel

/-- A deferred scan at module 15, slot 383 and key record 1599 with nothing owed, and at a module with its MODULE LOST
mark. -/
theorem test_meets_DeferredScanSteps :
    let s := fun (c : ScanCursor) => ({ running with poster := { running.poster with scan := some c } } : State)
    let lost := (s (.module 3)).modModule 3 (fun e => { e with lostMark := true })
    (s (.module 15)).quiet ∧ ((s (.module 15)).modEntry 15).lostMark = false ∧ ((s (.module 15)).modEntry 15).backMark = false ∧
    ((s (.slot 383)).slot 383).markStranger = false ∧ ((s (.slot 383)).slot 383).markWrongSlot = false ∧
    ((s (.slot 383)).slot 383).markSlotFault = false ∧ ((s (.slot 383)).slot 383).markLatchFault = false ∧
    ((s (.key 1599)).key 1599).state = .unused ∧ (lost.modEntry 3).lostMark = true ∧ (lost.modEntry 3).backMark = false ∧
    lost.byte (entryBase 0) = 0 ∧ (∀ a : EntryIx, (shelfFull lost).byte (entryBase a) ≠ 0) := by
  refine ⟨rfl, ?_⟩; decide +kernel

/-- A walk for slot 75 whose result is discarded, and one of an order that finds nothing, with requests and orders
waiting, among them two lookups for invalid fob IDs one after the other. -/
theorem test_meets_WalkerGrantsNext :
    let w : Walk := { asker := .slot 75, fob := 0x3A5C1B72, home := 137, cursor := 0xFFFF, depth := 1, pred := none, found := none }
    let looking := fun (k : SlotIx) (s : State) =>
      (s.setSlot k { emptySlot with state := .identifying, fobSeen := 0xFFFFFFFF }).modChip k (fun c => { c with step := .looking })
    let s := fun (l : List SlotRequest) (r : Option OrderRequest) => looking 76 (looking 78
      { running with walker := { running.walker with walk := some w, slotRequests := l, orderRequest := r } })
    let o := fun (kind : Byte) (fob : Word) => ({ cell := 7, copy := [kind, 0, 0, 0, 0, 0, 0] ++ le32 fob } : Order)
    let d := fun (l : List SlotRequest) (os : List Order) => looking 76 (looking 78 { walking 2 [] none none with
      walker := { (walking 2 [] none none).walker with slotRequests := l }
      board := { (walking 2 [] none none).board with intake := os } })
    let invalid : List SlotRequest := [⟨76, 0xFFFFFFFF⟩, ⟨78, 0xFFFFFFFF⟩]
    (s [] none).quiet ∧ (d [] []).quiet ∧ (s [] none).walker.walk = some w ∧ recOf w.cursor = none ∧
    (s [⟨77, 5⟩] none).walker.slotRequests = [⟨77, 5⟩] ∧ homeIndex 5 running.params.homeSpan < 1024 ∧
    ((s [] none).slot 75).state ≠ .identifying ∧ (s [] (some ⟨5, true⟩)).walker.orderRequest = some ⟨5, true⟩ ∧
    (s (invalid ++ [⟨77, 5⟩]) none).walker.slotRequests = invalid ++ [⟨77, 5⟩] ∧
    (s invalid (some ⟨5, true⟩)).walker.slotRequests = invalid ++ [] ∧
    (s (invalid ++ [⟨77, 5⟩]) none).answeredAtGrant invalid ∧ (s [] none).answeredAtGrant [⟨76, 0xFFFFFFFF⟩] ∧
    (d (invalid ++ [⟨77, 5⟩]) [o 12 9]).answeredAtGrant invalid ∧
    (d (invalid ++ [⟨77, 5⟩]) [o 12 9]).walker.slotRequests = invalid ++ [⟨77, 5⟩] ∧
    (d (invalid ++ [⟨77, 5⟩]) [o 12 9]).board.intake = o 12 9 :: [] ∧ (s [] none).byte (entryBase 0) = 0 ∧
    ((d [] []).walker.walk.map (fun w => (w.asker, w.found))) = some (.order, none) ∧
    ((d [] []).board.execution.map (fun e => (e.order.cell, e.order.kind))) = some (5, 2) ∧
    (d [⟨77, 5⟩] []).board.intake = [] ∧ (d [] [o 12 9]).board.intake = o 12 9 :: [] ∧ (o 12 9).kind = 12 ∧
    (o 12 9).fob = 9 ∧ (o 18 9).kind = 18 ∧ (o 18 9).cell ≠ 5 ∧ (d [] [o 18 9]).walker.orderRequest = none := by
  refine ⟨rfl, rfl, ?_⟩; unfold State.answeredAtGrant; decide +kernel

/-- A lookup for slot 75 that finds record 7 in each state, the slot pinned and not, with no, one and all entries FREE. -/
theorem test_meets_LookupOtherRows :
    let w : Walk := { asker := .slot 75, fob := 0x3A5C1B72, home := 137, cursor := 0xFFFF, depth := 1, pred := none,
                      found := some 7 }
    let s := fun (st : Custody) (pinned : Bool) =>
      (({ running with walker := { running.walker with walk := some w }, loans := { running.loans with due := [⟨7, 100⟩] } } :
        State).setKey 7 { aKey with state := st, slot := 76, announced := 1 }).setSlot 75
        { emptySlot with state := .identifying, fobSeen := 0x3A5C1B72, pinned := pinned, pinnedFob := 4 } |>.modChip 75
          (fun c => { c with step := .looking })
    (s .missing false).quiet ∧ (s .missing false).walker.walk = some w ∧ (s .missing false).walker.slotRequests = [] ∧
    ((s .missing false).slot 75).state = .identifying ∧ ((s .missing false).chip 75).step = .looking ∧
    ((s .missing false).slot 75).fobSeen = w.fob ∧ ((s .missing false).slot 75).lamp = .off ∧
    ((s .missing false).slot 75).pinned = false ∧
    (∀ st ∈ [Custody.missing, .lost, .check, .out, .resting, .releasing], ((s st false).key 7).state = st) ∧
    ((s .check false).key 7).slot = ofIx (76 : SlotIx) ∧ 1 ≤ ((s .out false).key 7).announced.toNat ∧
    (s .out false).loans.due = [] ++ { key := 7, due := 100 } :: [] ∧
    (∀ st ∈ [Custody.awaited, .missing, .lost, .check, .out], ((s st true).slot 75).pinned = true ∧ ((s st true).slot 75).pinnedFob ≠ ((s st true).key 7).fob ∧
      ((s st true).key 7).state = st) ∧
    ((s .out true).byte (entryBase 0) = 0 ∧ (s .out true).byte (entryBase 1) = 0) ∧
    ((s .out true).setKey 7 { aKey with state := .out }).key 7 = { aKey with state := .out } ∧ aKey.announced = 0 ∧ (∀ e : EntryIx, (shelfFull (s .out true)).byte (entryBase e) ≠ 0) ∧
    (∀ e : EntryIx, e ≠ 0 → ((shelfFull (s .out true)).writeStore (entryBase 0) [0]).byte (entryBase e) ≠ 0) ∧
    ((shelfFull (s .out true)).writeStore (entryBase 0) [0]).byte (entryBase 0) = 0 := by
  refine ⟨rfl, ?_⟩; decide +kernel

/-- The last read of a group, with a further group, a probe list, and neither; the timer running and expired; the last
probe. -/
theorem test_meets_RoundGoesOn :
    let r : Round := { groups := 4, group := 0, stage := .reading, readList := [0], probeList := [], waitUs := 0 }
    let s := fun (st : ModState) (r : Round) (timer : RoundTimer) => ({ lining (.roundRead 0) .awaiting 1 (up st) with
      mlc := { (lining (.roundRead 0) .awaiting 1 (up st)).mlc with round := some r, roundTimer := timer } } : State)
    (s .online r .stopped).quiet ∧
    ((Work.roundRead 0).awaited.map (fun a => judge a (arrive (frame 10 0 (countsData 41 2400))))) =
      some (.good (countsData 41 2400)) ∧
    (s .online r .stopped).mlc.round = some r ∧ (1 : ModIx).val % 4 = 1 ∧
    (((s .online r .stopped).modEntry 1).state = .online ∧ ((s .online r .stopped).modEntry 1).surveying = false) ∧
    (∀ d, ((s .lost r (.running 7)).modEntry d).state ≠ .online) ∧
    (s .lost { r with probeList := [9] } (.running 7)).mlc.round = some { r with probeList := [9] } ∧
    (s .lost r (.running 7)).mlc.roundTimer ≠ .expired ∧
    (s .online { r with group := 3 } .expired).mlc.roundTimer = .expired ∧
    (s .online { r with group := 3 } .expired).params.measureGroups = 1 ∧
    let last := inRound (aRound .probing [] [3]) (lining (.probe 3) .awaiting)
    ((Work.probe 3).awaited.map (fun a => judge a (arrive (frame 14 3 [23, 5])))) = some (.good [23, 5]) ∧
    last.mlc.identNext = 16 ∧ last.phase = .running ∧ last.mlc.round = some (aRound .probing [] [3]) ∧
    last.mlc.roundTimer ≠ .expired := by
  refine ⟨rfl, ?_⟩; decide +kernel

/-- A LATCH reply for slot 75 with an action owed, for each context the clauses tell apart, and with contexts waiting: one
and two other latches of the module not CLOSED. -/
theorem test_meets_OwedLatchAndGrants :
    let s := fun (a : Action) (owed : Option Action) (n : Nat) => ((List.range n).foldl (fun s p => s.setSlot
      (slotAt 3 ⟨p % 24, Nat.mod_lt _ (by decide)⟩) { emptySlot with latch := .opened }) (lining (.command (.latch 75 a)) .awaiting)).modChip 75
        (fun c => { c with latchOut := some a, latchOwed := owed })
    let waiting := fun (n : Nat) (k : SlotIx) => (fun s : State => { s with release := { s.release with
      waitLists := setAt s.release.waitLists (3 : Fin 16) [2], waitingCount := 1 } })
      (inCtx { aCtx .waiting with slot := k } (s .close none n))
    (s .open_ (some .close) 0).quiet ∧
    (∀ b ∈ [0, 1], ((Work.command (.latch 75 .open_)).awaited.map (fun a => judge a (arrive (frame 12 3 [3, b])))) =
      some (.good [3, b])) ∧
    ((s .open_ (some .close) 0).chip 75).latchOwed = some .close ∧ ((s .close (some .open_) 0).chip 75).latchOwed = some .open_ ∧
    (inCtx (aCtx .closing) (s .open_ (some .close) 0)).ctx 2 = some (aCtx .closing) ∧
    2 ∈ (inCtx (aCtx .closing) (s .open_ (some .close) 0)).release.order ∧
    (∀ c, (s .open_ (some .close) 0).ctx c = none) ∧ ((s .open_ (some .close) 0).modEntry (moduleOf 75)).state = .online ∧
    (s .open_ (some .close) 0).waitList (moduleOf 75) = [] ∧
    (inCtx (aCtx .opening) (s .close (some .open_) 0)).ctx 2 = some (aCtx .opening) ∧
    (waiting 1 76).waitList (moduleOf 75) = 2 :: [] ∧ ((waiting 1 76).chip 75).latchOwed = none ∧
    (waiting 1 76).ctx 2 = some { aCtx .waiting with slot := 76 } ∧ ((waiting 1 76).slot 76).latch = .closed ∧
    ((waiting 1 76).chip 76).latchOut = none ∧
    (∀ j : SlotIx, (j ≠ 75 ∧ moduleOf j = 3 ∧ ((waiting 1 76).slot j).latch ≠ .closed) ↔ j = 72) ∧
    (waiting 2 75).ctx 2 = some { aCtx .waiting with slot := 75 } ∧
    (∀ j ∈ [(72 : SlotIx), 73], j ≠ 75 ∧ moduleOf j = 3 ∧ ((waiting 2 75).slot j).latch ≠ .closed) := by
  refine ⟨rfl, ?_⟩; decide +kernel

/-- READ FOB replies for an UNVERIFIED slot that names record 7, and for one that names none. -/
theorem test_meets_VerificationReads :
    let s := fun (key : Half) (n : Byte) =>
      ((lining (.command (.readFob 75)) .awaiting).setSlot 75 { emptySlot with state := .unverified, attempts := n, key := key }).setKey 7
        { aKey with state := .check, slot := 75 } |>.modChip 75 (fun c => { c with step := .verifying })
    let oneFree := fun s : State => (shelfFull s).writeStore (entryBase 31) [0]
    (s 7 0).quiet ∧
    (∀ r ∈ [([3, 0] ++ le32 5 : List Byte), [3, 1] ++ le32 0], ((Work.command (.readFob 75)).awaited.map (fun a =>
      judge a (arrive (frame 11 3 r)))) = some (.good r)) ∧
    ((s 7 0).slot 75).state = .unverified ∧ ((s 7 0).chip 75).step = .verifying ∧ ((s 7 0).slot 75).lamp = .off ∧
    ((s 7 0).slot 75).key = ofIx (7 : RecIx) ∧ ((s 7 0).key 7).fob ≠ 5 ∧ (s 7 0).walker.walk = none ∧
    (s 7 0).walker.slotRequests = [] ∧ homeIndex 5 (s 7 0).params.homeSpan < 1024 ∧ ((s 7 1).slot 75).attempts = 1 ∧
    ((s 7 0).modEntry (moduleOf 75)).state = .online ∧ (s 7 0).mlc.queue = [] ∧ ((s 7 2).slot 75).attempts = 2 ∧
    ((s 7 2).byte (entryBase 0) = 0 ∧ (s 7 2).byte (entryBase 1) = 0) ∧ (oneFree (s 7 2)).byte (entryBase 31) = 0 ∧
    (∀ e : EntryIx, e ≠ 31 → (oneFree (s 7 2)).byte (entryBase e) ≠ 0) ∧
    (∀ e : EntryIx, (shelfFull (s 7 0)).byte (entryBase e) ≠ 0) ∧ (∀ i : RecIx, ((s 1600 0).slot 75).key ≠ ofIx i) := by
  refine ⟨rfl, ?_⟩; decide +kernel

/-- A deferred scan at a module with one and two marks, at a slot and a key record with each of their marks, and at a
record with an announcement owed; the shelf with every, one and no entry FREE. -/
theorem test_meets_DeferredScanPosts :
    let s := fun (c : ScanCursor) => ({ running with poster := { running.poster with scan := some c } } : State)
    let m := fun (lost : Bool) => (s (.module 15)).modModule 15 (fun e => { e with backMark := true, lostMark := lost })
    let k := fun (n : SlotMark) => (s (.slot 75)).setSlot 75 (emptySlot.setMark n true)
    let i := fun (r : KeyRec) => (s (.key 1598)).setKey 1598 r
    let out : KeyRec := { aKey with state := .out, level := 3, announced := 2 }
    let oneFree := fun s : State => (shelfFull s).writeStore (entryBase 31) [0]
    (s (.module 15)).quiet ∧ (m true).poster.scan = some (.module 15) ∧
    ((0 : SlotIx).val = 0 ∧ (15 : ModIx).val = 15 ∧ (1599 : RecIx).val = (1598 : RecIx).val + 1) ∧
    ((m true).modEntry 15).backMark = true ∧ ((m true).modEntry 15).lostMark = true ∧ ((m false).modEntry 15).lostMark = false ∧
    ((m true).byte (entryBase 0) = 0 ∧ (m true).byte (entryBase 1) = 0) ∧ (oneFree (m true)).byte (entryBase 31) = 0 ∧
    (∀ e : EntryIx, e ≠ 31 → (oneFree (m true)).byte (entryBase e) ≠ 0) ∧
    (∀ e : EntryIx, (shelfFull (m true)).byte (entryBase e) ≠ 0) ∧
    (∀ n ∈ [SlotMark.stranger, .wrongSlot, .slotFault, .latchFault], ∀ n' ∈ [SlotMark.stranger, .wrongSlot, .slotFault, .latchFault],
      ((k n).slot 75).mark n' = decide (n' = n)) ∧
    (∀ n ∈ [KeyMark.keyBack, .forcedRemoval, .keyUnaccounted, .returnedLate],
      ∀ n' ∈ [KeyMark.keyBack, .forcedRemoval, .keyUnaccounted, .returnedLate],
      ((i (aKey.setMark n true)).key 1598).mark n' = decide (n' = n)) ∧
    ((i aKey).key 1598).state = .awaited ∧ ((i out).key 1598).state = .out ∧
    ((i out).key 1598).announced.toNat < ((i out).key 1598).level.toNat ∧
    (i out).params.announceFrom ≤ ((i out).key 1598).level.toNat ∧
    (∀ n ∈ [KeyMark.keyBack, .forcedRemoval, .keyUnaccounted, .returnedLate], ((i out).key 1598).mark n = false) := by
  refine ⟨rfl, ?_⟩; decide +kernel

end Sys2Proof.Tests
end

section
/-! INT (R156): every change of the port keeps it at the value of its sources, so every step does. -/

open Sys2Proof Sys2Proof.Machine

namespace Sys2Proof.Machine

/-! ## Properties of the port -/

/-- A property of the port that each of its changes keeps is kept by every command: no other primitive change reaches
the port. -/
theorem Closed.of_port {Q : Port → Prop} (hQ : ∀ p q, PortStep p q → Q p → Q q) : Closed (fun s => Q s.port) where
  write _ _ _ h := h
  port s p hp h := hQ s.port p hp h
  params _ _ _ _ h := h
  paramsReset _ h := h
  queue _ _ _ h := h
  waiting _ _ _ h := h
  take _ _ _ _ h := h
  purge _ _ h := h
  emptied _ _ _ _ h := h
  rest _ _ h _ hport _ _ _ _ := hport ▸ h

/-- A closed property that does not see the queue of waiting commands is kept by every step. -/
theorem Closed.step_keeps {P : State → Prop} (hP : Closed P) (hq : ∀ s q, P s → P (s.withPending q)) {s t : State} (h : P s)
    (hst : Machine.step s = .next t) : P t := by
  unfold Machine.step at hst
  split at hst
  · cases hst; exact h
  · next c q _ =>
    obtain ⟨u, hu, hPu⟩ := exec_keeps hP c (hq s q h)
    rw [hu] at hst; cases hst; exact hPu

/-! ## INT (R156) -/

/-- INT is what R156 makes of the port's bits. -/
def Port.intOk (p : Port) : Prop := p.int = (p.doneSummary != 0 && p.doneEnable || p.shelfNews && p.shelfEnable)

theorem State.intOk_iff_port (s : State) : s.intOk ↔ s.port.intOk := Iff.rfl

theorem Port.intOk_evalInt (p : Port) : p.evalInt.intOk := rfl

/-- Every change of a bit that R156 names re-evaluates INT; the other changes touch neither INT nor those bits. -/
theorem PortStep.intOk {p q : Port} (h : PortStep p q) (hp : p.intOk) : q.intOk := by
  cases h with
  | setDone | clearDone | postNews | clearSticky | takeEnables | softReset => exact Port.intOk_evalInt _
  | alert | refused | data | status => exact hp
  | reset => rfl

theorem closed_intOk : Closed State.intOk := Closed.of_port fun _ _ => PortStep.intOk

/-- The weights of the six bits of PORT STATUS are distinct, so bit 5 is the sixth alone (R154). -/
theorem statusWord_bit_five (ready survey refused news alert int : Bool) :
    (BitVec.ofNat 16 ((if ready then 2 ^ 0 else 0) + (if survey then 2 ^ 1 else 0) + (if refused then 2 ^ 2 else 0) +
      (if news then 2 ^ 3 else 0) + (if alert then 2 ^ 4 else 0) + (if int then 2 ^ 5 else 0))).getLsbD 5 = int := by
  revert ready survey refused news alert int
  decide

theorem State.registerWord_status_int (s : State) : (s.registerWord 0).getLsbD 5 = s.port.int :=
  statusWord_bit_five _ _ _ _ _ _

end Sys2Proof.Machine

/-- Settles O4: each change of the port keeps INT at the value of R156, and no other change reaches it. -/
theorem stepKeepsInt : Obligations.StepKeepsInt :=
  ⟨fun _ _ h hst => closed_intOk.step_keeps (fun _ _ h => h) h hst, State.registerWord_status_int,
    fun _ => ⟨_, rfl, rfl⟩⟩

end

section
/-! The Port Interface (chapter 9): what the writes of the registers do and do not do. -/

open Sys2Proof Sys2Proof.Machine

namespace Sys2Proof.Machine

/-! ## Register writes (R153) -/

@[simp] theorem State.clearHistories_port (s : State) : s.clearHistories.port = s.port :=
  foldl_keeps (s := s) (fun t => t.port = s.port) (fun t k => t.modSlot k (fun r => { r with history := 0 }))
    (fun _ _ h => h) (List.finRange 384) rfl

@[simp] theorem State.resetPoster_port (s : State) : s.resetPoster.port = s.port := by
  unfold State.resetPoster; dsimp only; split <;> rfl

/-- A soft reset ends with WRITE REFUSED 0 (R154, R176). -/
theorem State.softReset_writeRefused (s : State) : s.softReset.port.writeRefused = false := by
  unfold State.softReset
  simp only [State.resetPoster_port, State.clearHistories_port]
  rfl

theorem State.portControl_writeRefused (s : State) (d : Half) (h : (s.portControl d).port.writeRefused = true) :
    s.port.writeRefused = true := by
  unfold State.portControl at h
  dsimp only at h
  split at h
  · split at h
    · exact h
    · rw [State.softReset_writeRefused] at h; cases h
  · exact h

@[simp] theorem State.askScan_port (s : State) : s.askScan.port = s.port := by
  unfold State.askScan
  repeat' split
  all_goals rfl

/-- A write of a register leaves WRITE REFUSED or clears it. -/
theorem State.registerWrite_writeRefused (s : State) (w : Nat) (d : Half)
    (h : (s.registerWrite w d).port.writeRefused = true) : s.port.writeRefused = true := by
  unfold State.registerWrite at h
  split at h
  · exact h
  · split at h
    · exact (Bool.and_eq_true_iff.mp h).1
    · rwa [State.askScan_port] at h
    · exact s.portControl_writeRefused d h
    · exact h

/-- A write of any word but PORT STATUS, ATTENTION and PORT CONTROL is ignored. -/
theorem State.registerWrite_ignored (s : State) {w : Nat} (d : Half) (h0 : w ≠ 0) (h1 : w ≠ 1) (h4 : w ≠ 4) :
    s.registerWrite w d = s := by
  unfold State.registerWrite
  split
  · rfl
  · split
    · exact absurd rfl h0
    · exact absurd rfl h1
    · exact absurd rfl h4
    · rfl

/-- Words 5 and above read 0. -/
theorem State.registerWord_above (s : State) {w : Nat} (h : 5 ≤ w) : s.registerWord w = 0 := by
  obtain ⟨k, rfl⟩ := Nat.exists_eq_add_of_le' h
  rfl

end Sys2Proof.Machine

/-- Settles O15: the rows of register writes are all `State.registerWrite`, whose four meanings are named above. -/
theorem registerWritesNeverRefused : Obligations.RegisterWritesNeverRefused := by
  refine ⟨fun s d w i hi => ?_, fun s d w hw => ?_, fun s => ⟨rfl, fun _ => s.registerWord_above⟩⟩
  · have hrow : ∃ n, exec i s = .next (s.registerWrite n d) := by
      simp only [List.mem_cons, List.not_mem_nil, or_false] at hi
      obtain rfl | rfl | rfl | rfl | rfl := hi
      · exact ⟨0, rfl⟩
      · exact ⟨1, rfl⟩
      · exact ⟨4, rfl⟩
      · exact ⟨4, rfl⟩
      · exact ⟨w.toNat, rfl⟩
    obtain ⟨n, hn⟩ := hrow
    exact ⟨_, hn, s.registerWrite_writeRefused n d⟩
  · have hword : w.toNat ≠ 0 ∧ w.toNat ≠ 1 ∧ w.toNat ≠ 4 := by
      obtain rfl | rfl | h := hw
      · decide
      · decide
      · omega
    obtain ⟨h0, h1, h4⟩ := hword
    exact congrArg Host.Outcome.next (s.registerWrite_ignored d h0 h1 h4)

end

section
/-! The guard of the Order Board's cells (R152, R158), and the examination of a cell that is not POSTED. -/

open Sys2Proof Sys2Proof.Machine

namespace Sys2Proof.Machine

/-! ## The written lanes (R152) -/

/-- A write of lanes changes the store alone. -/
theorem State.writeLanes_eq (s : State) (a : Nat) (d : Half) (bel beh : Bool) :
    s.writeLanes a d bel beh = { s with store := (s.writeLanes a d bel beh).store } := by
  cases bel <;> cases beh <;> rfl

theorem State.byte_writeLanes_low (s : State) (a : Nat) (d : Half) (beh : Bool) :
    (s.writeLanes a d true beh).byte a = d.extractLsb' 0 8 := by
  cases beh
  · exact s.byte_writeStore_inside a [d.extractLsb' 0 8] 0 (Nat.zero_lt_succ _)
  · exact s.byte_writeStore_inside a [d.extractLsb' 0 8, d.extractLsb' 8 8] 0 (Nat.zero_lt_succ _)

theorem State.byte_writeLanes_high (s : State) (a : Nat) (d : Half) (bel : Bool) :
    (s.writeLanes a d bel true).byte (a + 1) = d.extractLsb' 8 8 := by
  cases bel
  · exact s.byte_writeStore_inside (a + 1) [d.extractLsb' 8 8] 0 (Nat.zero_lt_succ _)
  · exact s.byte_writeStore_inside a [d.extractLsb' 0 8, d.extractLsb' 8 8] 1 (Nat.lt_succ_self 1)

/-- A byte whose lane is not enabled is as before. -/
theorem State.byte_writeLanes_other (s : State) (a : Nat) (d : Half) (bel beh : Bool) (x : Nat)
    (hl : x = a → bel = false) (hh : x = a + 1 → beh = false) : (s.writeLanes a d bel beh).byte x = s.byte x := by
  cases bel <;> cases beh
  · rfl
  all_goals
    simp only [reduceCtorEq, imp_false] at hl hh
    exact s.byte_writeStore_outside _ _ x (by simp only [List.length_cons, List.length_nil]; omega)

/-! ## The guard (R158) -/

/-- A condition on the low byte of a write that covers the first byte of the cell's first word. -/
theorem covers_imp_iff (n : Nat) (bel q : Bool) : (!(n == 0 && bel) || q) = true ↔ (n = 0 → bel = true → q = true) := by
  by_cases hn : n = 0
  · subst hn
    cases bel <;> cases q <;> decide
  · rw [beq_eq_false_iff_ne.mpr hn]
    exact ⟨fun _ h => absurd h hn, fun _ => rfl⟩

theorem cellAccepts_free (low : Byte) (n : Nat) (bel beh : Bool) :
    cellAccepts 0 (n == 0) low bel beh = true ↔ (n = 0 → bel = true → low = 1) := by
  have branch : cellAccepts 0 (n == 0) low bel beh = (!(n == 0 && bel) || low == 1) := rfl
  rw [branch, covers_imp_iff, beq_iff_eq]

theorem cellAccepts_posted (low : Byte) (n : Nat) (bel beh : Bool) :
    cellAccepts 1 (n == 0) low bel beh = true ↔ (n = 0 → bel = true → low = 0 ∨ low = 1) := by
  have branch : cellAccepts 1 (n == 0) low bel beh = (!(n == 0 && bel) || low == 0 || low == 1) := rfl
  rw [branch, Bool.or_assoc, covers_imp_iff, Bool.or_eq_true, beq_iff_eq, beq_iff_eq]

theorem cellAccepts_done (low : Byte) (n : Nat) (bel beh : Bool) :
    cellAccepts 3 (n == 0) low bel beh = true ↔ n = 0 ∧ bel = true ∧ beh = false ∧ low = 0 := by
  have branch : cellAccepts 3 (n == 0) low bel beh = (n == 0 && bel && !beh && low == 0) := rfl
  rw [branch]
  simp only [Bool.and_eq_true, Bool.not_eq_true', beq_iff_eq, and_assoc]

/-- In any other state the guard accepts nothing. -/
theorem cellAccepts_other {st : Byte} (low : Byte) (first bel beh : Bool) (h0 : st ≠ 0) (h1 : st ≠ 1) (h3 : st ≠ 3) :
    cellAccepts st first low bel beh = false := by
  unfold cellAccepts
  exact (if_neg h0).trans ((if_neg h1).trans (if_neg h3))

/-- The writes a cell's guard accepts, by the cell's state byte. -/
theorem cellAccepts_iff (st low : Byte) (n : Nat) (bel beh : Bool) :
    cellAccepts st (n == 0) low bel beh = true ↔
      st = 0 ∧ (n = 0 → bel = true → low = 1) ∨ st = 1 ∧ (n = 0 → bel = true → low = 0 ∨ low = 1) ∨
        st = 3 ∧ n = 0 ∧ bel = true ∧ beh = false ∧ low = 0 := by
  constructor
  · intro h
    by_cases h0 : st = 0
    · subst h0; exact .inl ⟨rfl, (cellAccepts_free low n bel beh).mp h⟩
    by_cases h1 : st = 1
    · subst h1; exact .inr (.inl ⟨rfl, (cellAccepts_posted low n bel beh).mp h⟩)
    by_cases h3 : st = 3
    · subst h3; exact .inr (.inr ⟨rfl, (cellAccepts_done low n bel beh).mp h⟩)
    · rw [cellAccepts_other low _ bel beh h0 h1 h3] at h; cases h
  · rintro (⟨rfl, h⟩ | ⟨rfl, h⟩ | ⟨rfl, h⟩)
    · exact (cellAccepts_free low n bel beh).mpr h
    · exact (cellAccepts_posted low n bel beh).mpr h
    · exact (cellAccepts_done low n bel beh).mpr h

/-- The bits of DONE SUMMARY when a cell is freed from DONE. -/
theorem Port.clearDone_bit (p : Port) (c j : CellIx) :
    (p.clearDone c).doneSummary.getLsbD j.val = (p.doneSummary.getLsbD j.val && !(j == c)) := by
  have same : decide (c.val = j.val) = (j == c) := by
    rw [Bool.eq_iff_iff, decide_eq_true_iff, beq_iff_eq]
    exact ⟨fun h => Fin.ext h.symm, fun h => congrArg Fin.val h.symm⟩
  show (p.doneSummary &&& ~~~(BitVec.twoPow 32 c.val)).getLsbD j.val = _
  rw [BitVec.getLsbD_and, BitVec.getLsbD_not, BitVec.getLsbD_twoPow, same, decide_eq_true j.isLt,
    decide_eq_true c.isLt, Bool.true_and, Bool.true_and]

/-- From the end of the clearing, a write with a lane enabled to a cell's word is judged by the cell's guard. -/
theorem State.hostWrite_cell (s : State) (addr : BitVec 15) (d : Half) (bel beh : Bool) (c : CellIx) (n : Nat)
    (hr : s.phase ≠ .inReset) (hc : ∀ w, s.phase ≠ .clearing w) (hlane : bel = true ∨ beh = true) (hn : n < 64)
    (ha : 2 * addr.toNat = cellBase c + n) : s.hostWrite addr d bel beh = s.hostCell c n d bel beh := by
  have hcell : 2 * addr.toNat < 0x0800 := by have := cellBase_lt c; omega
  have hword : (⟨2 * addr.toNat / 64, by omega⟩ : CellIx) = c := by
    apply Fin.ext
    show 2 * addr.toNat / 64 = c.val
    unfold cellBase at ha; omega
  have hmod : 2 * addr.toNat % 64 = n := by unfold cellBase at ha; omega
  have hserving : s.serving = true := bne_iff_ne.mpr hr
  have hjudged : ¬ (!s.serving || (!bel && !beh)) = true := by
    rw [hserving]
    obtain rfl | rfl := hlane
    · exact Bool.false_ne_true
    · rw [Bool.not_true, Bool.and_false]; exact Bool.false_ne_true
  unfold State.hostWrite
  dsimp only
  rw [if_neg hjudged]
  split
  · next w hw => exact absurd hw (hc w)
  · rw [dif_pos hcell, hword, hmod]

/-! ## The examination of a cell that is not POSTED (R160, R161) -/

/-- The scan's advance changes the scan alone. -/
theorem State.passCell_eq (s : State) (b : BoardScan) :
    s.passCell b = { s with board := { s.board with
      scan := (s.passCell b).board.scan, scanOwed := (s.passCell b).board.scanOwed } } := by
  unfold State.passCell
  repeat' split
  all_goals rfl

/-- With nothing queued, the examination of a cell that is not POSTED takes nothing: the scan moves on. -/
theorem State.examine_not_posted (s : State) (b : BoardScan) (hc : s.cellByte b.cell 0 ≠ 1) (hi : s.board.intake = []) :
    s.examine b = s.passCell b := by
  have hi' : (s.passCell b).board.intake = [] := by rw [State.passCell_eq]; exact hi
  unfold State.examine
  dsimp only
  rw [if_neg (show s.cellByte b.cell 0 ≠ cellPosted from hc), hi']
  unfold State.runOrders
  rw [← hi']

/-- SCAN_EXAMINATION of a cell that is not POSTED is the scan's advance alone, when no alert is left from before. -/
theorem scanExamination_not_posted (s : State) (b : BoardScan) (q : s.quiet) (hi : s.board.intake = [])
    (hs : s.board.scan = some b) (hc : s.cellByte b.cell 0 ≠ 1) :
    exec .scanExamination s = .next (s.passCell b) := by
  have hq : (s.passCell b).quiet := by rw [State.passCell_eq]; exact q
  show execScanExamination s = _
  unfold execScanExamination
  rw [hs]
  dsimp only
  rw [State.examine_not_posted s b hc hi, State.finish_of_quiet hq]
  rfl

/-! ## The two outcomes of a cell write -/

/-- What an accepted write makes of the port: freeing a DONE cell clears its DONE SUMMARY bit, any other write nothing. -/
def State.cellWritePort (s : State) (c : CellIx) : Port := if s.cellByte c 0 = 3 then s.port.clearDone c else s.port

theorem State.cellWritePort_done {s : State} {c : CellIx} (h : s.cellByte c 0 = 3) :
    s.cellWritePort c = s.port.clearDone c := if_pos h

theorem State.cellWritePort_other {s : State} {c : CellIx} (h : s.cellByte c 0 ≠ 3) : s.cellWritePort c = s.port :=
  if_neg h

theorem State.hostCell_accepted (s : State) (c : CellIx) (n : Nat) (d : Half) (bel beh : Bool)
    (h : cellAccepts (s.cellByte c 0) (n == 0) (d.extractLsb' 0 8) bel beh = true) :
    s.hostCell c n d bel beh =
      { s with store := (s.writeLanes (cellBase c + n) d bel beh).store, port := s.cellWritePort c } := by
  unfold State.hostCell State.cellWritePort cellDone
  rw [if_pos h]
  dsimp only
  rw [State.writeLanes_eq]
  split <;> rfl

theorem State.hostCell_refused (s : State) (c : CellIx) (n : Nat) (d : Half) (bel beh : Bool)
    (h : ¬ cellAccepts (s.cellByte c 0) (n == 0) (d.extractLsb' 0 8) bel beh = true) :
    s.hostCell c n d bel beh = s.refuseWrite := by
  unfold State.hostCell
  rw [if_neg h]

/-- The bits of DONE SUMMARY after an accepted write. -/
theorem State.cellWritePort_doneSummary (s : State) (c j : CellIx) :
    (s.cellWritePort c).doneSummary.getLsbD j.val =
      (s.port.doneSummary.getLsbD j.val && !(s.cellByte c 0 == 3 && j == c)) := by
  by_cases h : s.cellByte c 0 = 3
  · rw [State.cellWritePort_done h, Port.clearDone_bit, beq_iff_eq.mpr h, Bool.true_and]
  · rw [State.cellWritePort_other h, beq_eq_false_iff_ne.mpr h, Bool.false_and, Bool.not_false, Bool.and_true]

/-- An accepted write changes DONE SUMMARY and INT alone of the port. -/
theorem State.cellWritePort_eq (s : State) (c : CellIx) :
    s.cellWritePort c =
      { s.port with doneSummary := (s.cellWritePort c).doneSummary, int := (s.cellWritePort c).int } := by
  unfold State.cellWritePort
  split <;> rfl

/-- Neither outcome of a cell write changes the board or the offered alerts. -/
theorem State.hostCell_board_poster (s : State) (c : CellIx) (n : Nat) (d : Half) (bel beh : Bool) :
    (s.hostCell c n d bel beh).board = s.board ∧ (s.hostCell c n d bel beh).poster = s.poster := by
  by_cases h : cellAccepts (s.cellByte c 0) (n == 0) (d.extractLsb' 0 8) bel beh = true
  · rw [State.hostCell_accepted s c n d bel beh h]; exact ⟨rfl, rfl⟩
  · rw [State.hostCell_refused s c n d bel beh h]; exact ⟨rfl, rfl⟩

end Sys2Proof.Machine

/-- Settles O12: the write is `State.hostCell`, whose two outcomes the guard tells apart; the examination of a cell left
FREE only moves the scan on. -/
theorem cellWriteGuard : Obligations.CellWriteGuard := by
  intro s addr d bel beh c n hr hc hlane hn ha low st accepted
  have guard : cellAccepts st (n == 0) low bel beh = true ↔ accepted := cellAccepts_iff st low n bel beh
  refine ⟨s.hostCell c n d bel beh, congrArg Host.Outcome.next (s.hostWrite_cell addr d bel beh c n hr hc hlane hn ha),
    fun h => ?accepted, fun h => ?refused, fun b q hi hs hb hfree => ?examined⟩
  case accepted =>
    rw [State.hostCell_accepted s c n d bel beh (guard.mpr h), ha]
    refine ⟨?_, ?_, fun x hl hh => ?_, fun j => s.cellWritePort_doneSummary c j, fun h3 => ?_, fun h3 => ?_, ?_⟩
    · rintro rfl; exact s.byte_writeLanes_low _ d beh
    · rintro rfl; exact s.byte_writeLanes_high _ d bel
    · exact s.byte_writeLanes_other _ d bel beh x hl hh
    · show (s.cellWritePort c).intOk
      rw [State.cellWritePort_done h3]; exact Port.intOk_evalInt _
    · exact State.cellWritePort_other h3
    · rw [← State.cellWritePort_eq]
  case refused => exact s.hostCell_refused c n d bel beh fun h' => h (guard.mp h')
  case examined =>
    obtain ⟨hboard, hposter⟩ := s.hostCell_board_poster c n d bel beh
    generalize s.hostCell c n d bel beh = t at *
    have hq : t.quiet := by unfold State.quiet; rw [hposter]; exact q
    have hcell : t.cellByte b.cell 0 ≠ 1 := by rw [hb, hfree]; decide
    refine ⟨_, scanExamination_not_posted t b hq (hboard ▸ hi) (hboard ▸ hs) hcell, ?_⟩
    rw [State.passCell_eq]
    exact ⟨rfl, hboard ▸ hi, rfl⟩

end
